-- ==== Sys2Proof/Word.lean ====
section
/-! DEFINITION. The byte and the byte sequence (spec/00_scope.md rules R10, R11). -/

namespace Sys2Proof

/-- R10: the smallest unit the block moves, 0 to 255, bit 0 least significant. -/
abbrev Byte := BitVec 8

/-- R11: a finite sequence of bytes, index 0 transmitted or received first. -/
abbrev Bytes := List Byte

end Sys2Proof
end

