-- ==== Sys2Proof/Config.lean ====
section
/-! DEFINITION. What a block fixes before its first operation (spec/00_scope.md rule R8, spec/10_state.md rules
R38 to R41) and the one free value, the checksum function nobody pinned. -/

namespace Sys2Proof

/-- R55: the byte order of the 16 and 32 bit integers. -/
inductive Endian where
  | le
  | be
  deriving DecidableEq, Repr

/-- R13, R41: what payload lengths a registered message type accepts. The bounds are unbounded naturals (R13, U5):
a bound above 255 is legal and can never be met. -/
inductive Shape where
  | fixedLen (n : Nat)
  | variableLen (min max : Nat)
  deriving DecidableEq, Repr

/-- R41: the Message Type Registry as plain data: (code, Shape) with the codes strictly rising (`Registry.WF`);
a code that is not listed is absent. -/
abbrev Registry := List (Byte × Shape)

/-- Where the parameter `CK` comes from. R39: "`CFG.CKSEL` only names the two instances this spec defines" while
"the model's `CK` is still an arbitrary total function". DESIGN CHOICE, log entry 2. -/
inductive CkSource where
  /-- The block computes the algorithm that `CFG.CKSEL` names. -/
  | cksel
  /-- The integrator pinned an algorithm of its own: `CK` is `Config.pinnedChecksum`, and CKSEL is not consulted. -/
  | pinned
  deriving DecidableEq, Repr

/-- R130, R135, U1: an arbitrary total function of the byte sequence alone. A FREE VALUE: no body, so a statement
that holds of it holds of every checksum function. -/
opaque Config.pinnedChecksum : Bytes → Byte

/-- R38: the configuration tuple (`SYNC`, `MAX_PAYLOAD`, `ENDIAN`, `CK`, `REG`) every operation's meaning takes as a
parameter. It is computed from State (`State.params`) and is no field of State. -/
structure Params where
  sync : Byte
  /-- R8, R39: `MAX_PAYLOAD`, 0 to 255, as the 8-bit field CFG.MAXP holds it. -/
  maxp : Byte
  endian : Endian
  ck : Bytes → Byte
  reg : Byte → Option Shape

end Sys2Proof
end

