-- ==== Sys2Proof/Syntax.lean ====
section
/-! DEFINITION. The operation set HPK-OPS and the command record that carries an operation (spec/30_encoding.md
rules R90, R91, R95, R96). -/

namespace Sys2Proof

/-- R95: one constructor per row of spec/opcode_table.json, its operands typed as R95 types them. Integers are
mathematical integers and offsets and counts are naturals (R91). -/
inductive Instr where
  | encU8 (value : Int)
  | encU16 (value : Int)
  | encU32 (value : Int)
  | encBytes (data : Bytes)
  | decU8 (bytes : Bytes) (off : Nat)
  | decU16 (bytes : Bytes) (off : Nat)
  | decU32 (bytes : Bytes) (off : Nat)
  | decBytes (bytes : Bytes) (off : Nat) (n : Nat)
  | ckCompute (bytes : Bytes)
  | ckVerify (bytes : Bytes) (claimed : Byte)
  | frameEncode (deviceId : Int) (messageType : Int) (payload : Bytes)
  | frameDecode (bytes : Bytes)
  | feed (b : Byte)
  | regLookup (t : Byte)
  | reset
  /-- R96: the reserved code 0xF, which selects no operation. -/
  | reservedF
  deriving DecidableEq, Repr

/-- R90, R91: format CMD, an operation-select code and the operands of R95. R95 gives the operands types and no
bits, so the record has one typed place for each: `value`; `device_id` and `message_type`; the byte sequence that
R95 calls `data`, `bytes` or `payload`; `off`; `n`; and the byte that R95 calls `claimed`, `b` or `t`. A place that
the selected operation has no operand for is not read. DESIGN CHOICE, log entry 6. -/
structure Command where
  op : BitVec 4
  value : Int := 0
  deviceId : Int := 0
  messageType : Int := 0
  bytes : Bytes := []
  off : Nat := 0
  n : Nat := 0
  byte : Byte := 0#8
  deriving DecidableEq, Repr

end Sys2Proof
end

