-- ==== Sys2Proof/WellFormed.lean ====
section
/-! DEFINITION. Which instructions are well formed. -/

namespace Sys2Proof

/-- R96: every instruction selects an operation except the reserved code 0xF. The operands need no check: every
integer, natural, byte and byte sequence is a legal operand, and a value that does not fit is a defined error of the
operation (R91, U13). -/
def Instr.wellFormed : Instr → Bool
  | .encU8 _ => true
  | .encU16 _ => true
  | .encU32 _ => true
  | .encBytes _ => true
  | .decU8 _ _ => true
  | .decU16 _ _ => true
  | .decU32 _ _ => true
  | .decBytes _ _ _ => true
  | .ckCompute _ => true
  | .ckVerify _ _ => true
  | .frameEncode _ _ _ => true
  | .frameDecode _ => true
  | .feed _ => true
  | .regLookup _ => true
  | .reset => true
  | .reservedF => false

end Sys2Proof
end

