-- ==== Sys2Proof/Decode.lean ====
section
/-! DEFINITION. The command decoder, the encoder and the pseudo-operations (spec/30_encoding.md rules R91, R95,
R96, R101). The Frame, the other thing this block decodes (R7), is in Machine/PacketFrame.lean. -/

namespace Sys2Proof

/-- R95, R96: the sixteen values of `op`. The last arm is 0xF, the only value left (`decode_eq_reservedF`). -/
def decode (c : Command) : Instr :=
  match c.op with
  | 0x0#4 => .encU8 c.value
  | 0x1#4 => .encU16 c.value
  | 0x2#4 => .encU32 c.value
  | 0x3#4 => .encBytes c.bytes
  | 0x4#4 => .decU8 c.bytes c.off
  | 0x5#4 => .decU16 c.bytes c.off
  | 0x6#4 => .decU32 c.bytes c.off
  | 0x7#4 => .decBytes c.bytes c.off c.n
  | 0x8#4 => .ckCompute c.bytes
  | 0x9#4 => .ckVerify c.bytes c.byte
  | 0xA#4 => .frameEncode c.deviceId c.messageType c.bytes
  | 0xB#4 => .frameDecode c.bytes
  | 0xC#4 => .feed c.byte
  | 0xD#4 => .regLookup c.byte
  | 0xE#4 => .reset
  | _ => .reservedF

/-- R95: the command record of an instruction, with 0 in every place the operation has no operand for. -/
def encode : Instr → Command
  | .encU8 value => { op := 0x0#4, value := value }
  | .encU16 value => { op := 0x1#4, value := value }
  | .encU32 value => { op := 0x2#4, value := value }
  | .encBytes data => { op := 0x3#4, bytes := data }
  | .decU8 bytes off => { op := 0x4#4, bytes := bytes, off := off }
  | .decU16 bytes off => { op := 0x5#4, bytes := bytes, off := off }
  | .decU32 bytes off => { op := 0x6#4, bytes := bytes, off := off }
  | .decBytes bytes off n => { op := 0x7#4, bytes := bytes, off := off, n := n }
  | .ckCompute bytes => { op := 0x8#4, bytes := bytes }
  | .ckVerify bytes claimed => { op := 0x9#4, bytes := bytes, byte := claimed }
  | .frameEncode d t payload => { op := 0xA#4, deviceId := d, messageType := t, bytes := payload }
  | .frameDecode bytes => { op := 0xB#4, bytes := bytes }
  | .feed b => { op := 0xC#4, byte := b }
  | .regLookup t => { op := 0xD#4, byte := t }
  | .reset => { op := 0xE#4 }
  | .reservedF => { op := 0xF#4 }

/-- R91: the command a table word stands for. The format CMD assigns bits 3:0 (`op`) and no other; the operands,
which the table gives no bits, are zero and empty. DESIGN CHOICE, log entry 6. -/
def commandOfWord (nbits w : Nat) : Command :=
  { op := BitVec.ofNat 4 (w % 2 ^ nbits) }

/-- The instruction the decoder reads from a table word (`nbits` bits, bit 0 least significant). -/
def decodeTableWord (nbits w : Nat) : Option Instr :=
  some (decode (commandOfWord nbits w))

/-- R101: `FEED_CHUNK`, one FEED per byte, in order. -/
def pseudoFeedChunk (chunk : Bytes) : List Instr :=
  chunk.map .feed

/-- R101: `ENCODE p`. -/
def pseudoEncode (deviceId messageType : Byte) (payload : Bytes) : List Instr :=
  [.frameEncode (deviceId.toNat : Int) (messageType.toNat : Int) payload]

/-- R101: `CREATE`, the opening of a connection. -/
def pseudoCreate : List Instr := [.reset]

/-- R101: `CLOSE`, the closing of a connection. -/
def pseudoClose : List Instr := [.reset]

end Sys2Proof
end

