-- ==== Sys2Proof/Machine/State.lean ====
section
/-! DEFINITION. The state of the block and of its command interface, as plain data (spec/10_state.md rules R20 to
R42, spec/00_scope.md rule R13, spec/30_encoding.md rule R90). -/

namespace Sys2Proof.Machine

/-- R230: the eight error kinds, in the source's order. An error is a value of a response or the reason of an
event; it never stops the block. -/
inductive ErrorKind where
  | valueOutOfRange
  | bufferTooShort
  | payloadTooLarge
  | syncMismatch
  | incompleteFrame
  | checksumMismatch
  | unknownMessageType
  | payloadShapeMismatch
  deriving DecidableEq, Repr

/-- R13: the checksum is no attribute of a Packet. -/
structure Packet where
  deviceId : Byte
  messageType : Byte
  payload : Bytes
  deriving DecidableEq, Repr

/-- R13, R241: the only notifications the block produces. -/
inductive Event where
  | packet (p : Packet)
  | frameRejected (reason : ErrorKind)
  deriving DecidableEq, Repr

/-- R25: the four positions of the Decoder. -/
inductive St where
  | seeking
  | readingHeader
  | readingPayload
  | validating
  deriving DecidableEq, Repr

/-- R20, R22: the Decoder State. `buf` is the accumulation buffer; its length is the fill count, and a cell at or
above the fill count holds no value. -/
structure Decoder where
  st : St
  buf : Bytes
  deriving DecidableEq, Repr

/-- R172, R33, R176: what a FEED works on while it runs: the Decoder State, the replay queue and the events emitted
so far. It lives inside one FEED and is no part of State. -/
structure Scan where
  dec : Decoder
  q : Bytes
  events : List Event
  deriving DecidableEq, Repr

/-- R95: the results an operation can return. -/
inductive Result where
  /-- ENC_U8, ENC_U16, ENC_U32, ENC_BYTES, FRAME_ENCODE -/
  | bytes (b : Bytes)
  /-- DEC_U8, DEC_U16, DEC_U32: (`value`, `next_off`) -/
  | value (v : Nat) (nextOff : Nat)
  /-- DEC_BYTES: (`data`, `next_off`) -/
  | data (b : Bytes) (nextOff : Nat)
  /-- CK_COMPUTE -/
  | checksum (c : Byte)
  /-- CK_VERIFY -/
  | verdict (b : Bool)
  /-- FRAME_DECODE -/
  | packet (p : Packet)
  /-- FEED -/
  | events (es : List Event)
  /-- REG_LOOKUP -/
  | shape (o : Option Shape)
  /-- RESET -/
  | nothing
  deriving DecidableEq, Repr

/-- R90, R245: what an operation returns: its result, or the one error kind and no other result. The code
`status[3:0]` of R231 is `Response.status`. -/
inductive Response where
  | ok (r : Result)
  | error (e : ErrorKind)
  deriving DecidableEq, Repr

/-- What reaches the block from outside: a command (R90) or the hardware reset (R265). -/
inductive Input where
  | command (c : Command)
  | hardwareReset
  deriving DecidableEq, Repr

/-- Why the machine stops with a fault: never. U16: `stuck` is never an outcome, and every error kind is a value
(R245, R246), so the type has no constructor. -/
inductive Fault
  deriving DecidableEq, Repr

/-- Why the model has no step. -/
inductive Refusal where
  /-- Raised by exec's arm of an instruction without a meaning yet. Safe. -/
  | notModelled (mnemonic : String)
  /-- Raised by the meaning of the reserved code 0xF (R96, U8: no step, no result). Safe. -/
  | reservedOperation
  /-- Raised by step in a block whose CFG.CKSEL is 2 to 7 and selects no algorithm (R39, U9). Safe. -/
  | reservedChecksumSelect
  /-- Raised by FEED in a Decoder State that is not quiescent (R30, U10): no run from a reset Decoder State reaches
  one, and R172 gives it no meaning. Safe; log entry 9. -/
  | decoderNotQuiescent
  deriving DecidableEq, Repr

/-- The whole state. `dec` is the block's one piece of mutable state (R20); `cfg`, `ckSource` and `reg` are the
configuration, which no step writes (R40); `inputs` and `responses` are the model's own fields for the caller's side
of the command interface (log entries 4 and 5). -/
structure State where
  /-- R20: the Decoder State. -/
  dec : Decoder
  /-- R39: the word CFG: SYNC 7:0, MAXP 15:8, ENDIAN 16, CKSEL 19:17, reserved 31:20. -/
  cfg : BitVec 32
  /-- R8, R39: whether CKSEL names `CK` or an algorithm was pinned from outside. -/
  ckSource : CkSource
  /-- R41: the Message Type Registry. -/
  reg : Registry
  /-- Operations issued and not yet performed, and hardware resets, oldest first. -/
  inputs : List Input
  /-- Responses returned so far, oldest first (R286). -/
  responses : List Response
  deriving DecidableEq, Repr

/-- The machine right after reset: the Decoder State of R42, nothing issued and nothing returned. Reset does not
change the configuration (R42, R266); the values here are the defaults of R8: SYNC = 0xAA, MAX_PAYLOAD = 255, LE,
XOR8, no message type registered. DESIGN CHOICE, log entries 1, 2, 3. -/
def State.reset : State :=
  { dec := { st := .seeking, buf := [] }
    cfg := 0x0000FFAA#32
    ckSource := .cksel
    reg := []
    inputs := []
    responses := [] }

end Sys2Proof.Machine
end

