-- ==== Sys2Proof/Machine/Flags.lean ====
section
/-! DEFINITION. The block has no status flags, no condition codes and no sticky error bits (spec/10_state.md rule
R37), so no operation computes one. What stands in their place is the status code of a response and the reason code
of an event (spec/60_exceptions.md rule R231). -/

namespace Sys2Proof.Machine

/-- R231: the 4-bit code of each error kind. -/
def ErrorKind.code : ErrorKind → BitVec 4
  | .valueOutOfRange => 1#4
  | .bufferTooShort => 2#4
  | .payloadTooLarge => 3#4
  | .syncMismatch => 4#4
  | .incompleteFrame => 5#4
  | .checksumMismatch => 6#4
  | .unknownMessageType => 7#4
  | .payloadShapeMismatch => 8#4

/-- R231: the kind a code names; 0 is success and 9 to 15 are unused (U14). -/
def ErrorKind.ofCode (c : BitVec 4) : Option ErrorKind :=
  match c with
  | 1#4 => some .valueOutOfRange
  | 2#4 => some .bufferTooShort
  | 3#4 => some .payloadTooLarge
  | 4#4 => some .syncMismatch
  | 5#4 => some .incompleteFrame
  | 6#4 => some .checksumMismatch
  | 7#4 => some .unknownMessageType
  | 8#4 => some .payloadShapeMismatch
  | _ => none

/-- R90, R231: `status[3:0]`, 0 = success, otherwise the error's code. -/
def Response.status : Response → BitVec 4
  | .ok _ => 0#4
  | .error e => e.code

/-- R231, R188: the kinds FEED can report as the reason of a FrameRejected event (codes 3, 6, 7, 8). -/
def ErrorKind.isFeedReason : ErrorKind → Bool
  | .valueOutOfRange => false
  | .bufferTooShort => false
  | .payloadTooLarge => true
  | .syncMismatch => false
  | .incompleteFrame => false
  | .checksumMismatch => true
  | .unknownMessageType => true
  | .payloadShapeMismatch => true

end Sys2Proof.Machine
end

