-- ==== Sys2Proof/Machine/Formats.lean ====
section
/-! DEFINITION. The block's bit formats: the configuration word CFG (spec/10_state.md rule R39), the registry table
entry (rule R41), the code of the position (rule R25) and the event format EVT (spec/30_encoding.md rule R92). -/

namespace Sys2Proof.Machine

/-! ### CFG (R39) -/

/-- R39: CFG.SYNC, bits 7:0. -/
def cfgSync (w : BitVec 32) : Byte := w.extractLsb' 0 8

/-- R39: CFG.MAXP, bits 15:8. -/
def cfgMaxp (w : BitVec 32) : Byte := w.extractLsb' 8 8

/-- R39: CFG.ENDIAN, bit 16: 0 = LE, 1 = BE. -/
def cfgEndian (w : BitVec 32) : Endian := if w.getLsbD 16 then .be else .le

/-- R39: CFG.CKSEL, bits 19:17. -/
def cfgCksel (w : BitVec 32) : BitVec 3 := w.extractLsb' 17 3

/-- R39: bits 31:20, hardwired 0. -/
def cfgReserved (w : BitVec 32) : BitVec 12 := w.extractLsb' 20 12

/-- R39: the word an integrator straps. -/
def cfgWord (sync maxp : Byte) (endian : Endian) (cksel : BitVec 3) : BitVec 32 :=
  sync.setWidth 32 ||| (maxp.setWidth 32 <<< 8) |||
    ((if endian = .be then 1#32 else 0#32) <<< 16) ||| (cksel.setWidth 32 <<< 17)

/-! ### Registry entry (R41) -/

/-- R41: the 17-bit table entry: `valid` 16, `max` 15:8, `min` 7:0. -/
def entryWord (valid : Bool) (min max : Byte) : BitVec 17 :=
  min.setWidth 17 ||| (max.setWidth 17 <<< 8) ||| ((if valid then 1#17 else 0#17) <<< 16)

/-- R41: the entry of an absent type (`valid` = 0) or of a Shape; a Shape whose bound exceeds 255 cannot be stored.
That bits 15:0 of an absent entry are 0 is DESIGN CHOICE, log entry 21: R41 says only that they are ignored. -/
def shapeEntry : Option Shape → Option (BitVec 17)
  | none => some (entryWord false 0#8 0#8)
  | some (.fixedLen n) =>
    if n ≤ 255 then some (entryWord true (BitVec.ofNat 8 n) (BitVec.ofNat 8 n)) else none
  | some (.variableLen min max) =>
    if min ≤ 255 ∧ max ≤ 255 then some (entryWord true (BitVec.ofNat 8 min) (BitVec.ofNat 8 max)) else none

/-- R41, R213: what a stored entry registers, as the pair of bounds it holds; with `valid` = 0 bits 15:0 are ignored. -/
def entryShape (e : BitVec 17) : Option Shape :=
  if e.getLsbD 16 then some (.variableLen (e.extractLsb' 0 8).toNat (e.extractLsb' 8 8).toNat) else none

/-! ### The position (R25) -/

/-- R25: Seeking = 0, ReadingHeader = 1, ReadingPayload = 2, Validating = 3. -/
def St.code : St → BitVec 2
  | .seeking => 0#2
  | .readingHeader => 1#2
  | .readingPayload => 2#2
  | .validating => 3#2

/-- R25: the position a code names; all four encodings are assigned (U14), the last arm is 3. -/
def St.ofCode (c : BitVec 2) : St :=
  match c with
  | 0#2 => .seeking
  | 1#2 => .readingHeader
  | 2#2 => .readingPayload
  | _ => .validating

/-! ### EVT (R92) -/

/-- R92: `kind` 0, `reason` 4:1, `device_id` 12:5, `message_type` 20:13, `length` 28:21. -/
def evtHeader (kind : BitVec 1) (reason : BitVec 4) (deviceId messageType length : Byte) : BitVec 29 :=
  kind.setWidth 29 ||| (reason.setWidth 29 <<< 1) ||| (deviceId.setWidth 29 <<< 5) |||
    (messageType.setWidth 29 <<< 13) ||| (length.setWidth 29 <<< 21)

/-- R92: an event as its header and the payload bytes that follow. -/
def evtEncode : Event → BitVec 29 × Bytes
  | .packet p => (evtHeader 0#1 0#4 p.deviceId p.messageType (BitVec.ofNat 8 p.payload.length), p.payload)
  | .frameRejected e => (evtHeader 1#1 e.code 0#8 0#8 0#8, [])

/-- R92: the event a header and its payload bytes stand for; `none` where the record is no EVT record (a reason
that R92 does not list, a field that R92 says is 0, a payload of another length). -/
def evtDecode (h : BitVec 29) (payload : Bytes) : Option Event :=
  let reason : BitVec 4 := h.extractLsb' 1 4
  let deviceId : Byte := h.extractLsb' 5 8
  let messageType : Byte := h.extractLsb' 13 8
  let length : Byte := h.extractLsb' 21 8
  if h.getLsbD 0 then
    if deviceId = 0#8 ∧ messageType = 0#8 ∧ length = 0#8 ∧ payload = [] then
      match ErrorKind.ofCode reason with
      | some e => if e.isFeedReason then some (.frameRejected e) else none
      | none => none
    else none
  else if reason = 0#4 ∧ length.toNat = payload.length then
    some (.packet { deviceId := deviceId, messageType := messageType, payload := payload })
  else none

end Sys2Proof.Machine
end

