-- ==== Sys2Proof/Machine/Operands.lean ====
section
/-! DEFINITION. Operand access and assembly: byte sequences read by index, offset and slice, and integers taken from
and turned into bytes by the byte order (spec/00_scope.md rules R11, R12, spec/20_memory.md rules R55 to R60,
spec/40_field_codec.md rule R111). -/

namespace Sys2Proof.Machine

/-- R11: `s[i..j)`. -/
def slice (s : Bytes) (i j : Nat) : Bytes :=
  (s.drop i).take (j - i)

/-- R11: `s[i]`. It is defined only for `i < |s|`; every caller has tested that, so the 0 past the end reaches no
result (log entry 14). -/
def byteAt (s : Bytes) (i : Nat) : Byte :=
  s.getD i 0#8

/-- R12: `MemRead(s, off, n)`, used only after the test `off + n <= |s|`. -/
def memRead (s : Bytes) (off n : Nat) : Bytes :=
  slice s off (off + n)

/-- R55: the `k` bytes of `v`, the least significant at the lowest offset. -/
def leBytes : Nat → Nat → Bytes
  | 0, _ => []
  | k + 1, v => BitVec.ofNat 8 (v % 256) :: leBytes k (v / 256)

/-- R55: the number whose least significant byte stands first. -/
def leNat : Bytes → Nat
  | [] => 0
  | b :: bs => b.toNat + 256 * leNat bs

/-- R55: with BE the sequences are reversed. -/
def inByteOrder (e : Endian) (s : Bytes) : Bytes :=
  match e with
  | .le => s
  | .be => s.reverse

/-- R111 to R114: the `k` bytes of an unsigned integer of `8 * k` bits, or ValueOutOfRange. -/
def encodeUInt (e : Endian) (k : Nat) (value : Int) : Except ErrorKind Bytes :=
  if value < 0 ∨ value ≥ ((256 ^ k : Nat) : Int) then .error .valueOutOfRange
  else .ok (inByteOrder e (leBytes k value.toNat))

/-- R111, R116 to R118: the unsigned integer in the `k` bytes at `off` and the offset after them, or
BufferTooShort. -/
def decodeUInt (e : Endian) (k : Nat) (bytes : Bytes) (off : Nat) : Except ErrorKind (Nat × Nat) :=
  if off + k > bytes.length then .error .bufferTooShort
  else .ok (leNat (inByteOrder e (memRead bytes off k)), off + k)

/-- R119: the `n` bytes at `off` and the offset after them, or BufferTooShort. -/
def decodeRaw (bytes : Bytes) (off n : Nat) : Except ErrorKind (Bytes × Nat) :=
  if off + n > bytes.length then .error .bufferTooShort
  else .ok (memRead bytes off n, off + n)

end Sys2Proof.Machine
end

