-- ==== Sys2Proof/Machine/Ops.lean ====
section
/-! DEFINITION. The named operations over the configuration, the registry, the Decoder State and the command
interface that the meanings share. -/

namespace Sys2Proof.Machine

/-! ### The checksum parameter CK (spec/41_checksum.md) -/

/-- R133: the exclusive-or of all bytes, starting from 0x00. -/
def xor8 (s : Bytes) : Byte := s.foldl (fun acc b => acc ^^^ b) 0#8

/-- R134: the sum of all bytes modulo 256, starting from 0x00. -/
def add8 (s : Bytes) : Byte := s.foldl (fun acc b => acc + b) 0#8

/-- R39: the function `CK`. CKSEL 2 to 7 selects no algorithm; step refuses such a block (`State.Configured`), so the
uninterpreted function in that place is never run. -/
def checksumOf (source : CkSource) (cksel : BitVec 3) : Bytes → Byte :=
  match source with
  | .pinned => Config.pinnedChecksum
  | .cksel => if cksel = 0#3 then xor8 else if cksel = 1#3 then add8 else Config.pinnedChecksum

end Sys2Proof.Machine

namespace Sys2Proof

/-! ### The Message Type Registry (spec/44_registry_and_system.md) -/

/-- R41, R211: entry `t` of the table. -/
def Registry.lookup : Registry → Byte → Option Shape
  | [], _ => none
  | (code, shape) :: rest, t => if code = t then some shape else Registry.lookup rest t

/-- R41: the one form of a table: codes strictly rising, so that equal tables are equal lists. -/
abbrev Registry.WF (r : Registry) : Prop := r.Pairwise (fun a b => a.1 < b.1)

/-- R8, U5: the table of any function from codes to Shapes: the load that happens before the first operation (R267). -/
def Registry.ofFun (f : Byte → Option Shape) : Registry :=
  (List.range 256).filterMap fun i =>
    (f (BitVec.ofNat 8 i)).map fun shape => (BitVec.ofNat 8 i, shape)

/-- R212: whether a Shape accepts a payload length; both bounds of a Variable shape are inclusive. -/
def Shape.accepts : Shape → Nat → Bool
  | .fixedLen n, len => decide (len = n)
  | .variableLen min max, len => decide (min ≤ len ∧ len ≤ max)

/-! ### The configuration (spec/00_scope.md rule R8) -/

/-- R8: `MAX_PAYLOAD`, 0 to 255. -/
def Params.maxPayload (P : Params) : Nat := P.maxp.toNat

/-- R8: `MAX_FRAME` = 5 + `MAX_PAYLOAD`. -/
def Params.maxFrame (P : Params) : Nat := 5 + P.maxPayload

end Sys2Proof

namespace Sys2Proof.Machine

/-- R38: the configuration tuple a state's block was built with. -/
def State.params (s : State) : Params :=
  { sync := cfgSync s.cfg
    maxp := cfgMaxp s.cfg
    endian := cfgEndian s.cfg
    ck := checksumOf s.ckSource (cfgCksel s.cfg)
    reg := Registry.lookup s.reg }

/-- R39, U9: CKSEL names an algorithm, or the algorithm was pinned from outside. -/
abbrev State.Configured (s : State) : Prop :=
  s.ckSource = .pinned ∨ cfgCksel s.cfg = 0#3 ∨ cfgCksel s.cfg = 1#3

/-- R40, R267: a new block: the configuration and the registry in place and the Decoder State in its reset state. -/
def State.ofConfig (cfg : BitVec 32) (ckSource : CkSource) (reg : Registry) : State :=
  { State.reset with cfg := cfg, ckSource := ckSource, reg := reg }

/-- R14: a Packet that the block's own FRAME_DECODE accepts. -/
abbrev Packet.Valid (P : Params) (p : Packet) : Prop :=
  p.payload.length ≤ P.maxPayload ∧
    ∃ shape, P.reg p.messageType = some shape ∧ shape.accepts p.payload.length = true

/-! ### The Decoder State (spec/10_state.md) -/

/-- R42: the reset state of a Decoder State. -/
def Decoder.reset : Decoder := { st := .seeking, buf := [] }

/-- R23: the length byte of the candidate, `buf[1]`. -/
def Decoder.candidateLength (d : Decoder) : Nat := (byteAt d.buf 1).toNat

/-- R30: the invariants Q1 to Q6 of a Decoder State between operations. -/
abbrev Decoder.Quiescent (P : Params) (d : Decoder) : Prop :=
  d.st ≠ .validating ∧
  (d.st = .seeking ↔ d.buf.length = 0) ∧
  (d.st = .readingHeader ↔ 1 ≤ d.buf.length ∧ d.buf.length ≤ 3) ∧
  (d.st = .readingPayload ↔ 4 ≤ d.buf.length ∧ d.buf.length < 5 + d.candidateLength) ∧
  (1 ≤ d.buf.length → byteAt d.buf 0 = P.sync) ∧
  d.buf.length ≤ P.maxFrame

/-- R215, R216, R265: RESET, CREATE, CLOSE and hardware reset have this one effect on the Decoder State. -/
def State.resetDecoder (s : State) : State := { s with dec := Decoder.reset }

/-- R265: hardware reset: the Decoder State is reset, the configuration is untouched, nothing is returned. -/
def State.hardwareReset (s : State) : State := s.resetDecoder

/-- The Decoder State a FEED leaves. -/
def State.setDecoder (s : State) (d : Decoder) : State := { s with dec := d }

/-! ### The command interface (spec/30_encoding.md rule R90) -/

/-- R66: the oldest input and the state without it; inputs take effect in issue order. -/
def State.takeInput (s : State) : Option (Input × State) :=
  match s.inputs with
  | [] => none
  | i :: rest => some (i, { s with inputs := rest })

/-- R90: a response is returned to the caller. -/
def State.respond (s : State) (r : Response) : State :=
  { s with responses := s.responses ++ [r] }

/-- R245: what an error does: the response carries the error's kind and no other result, and nothing else changes.
There is no handler and no saved state, and so no return (R248). -/
def State.raise (e : ErrorKind) (s : State) : Host.Outcome State Fault Refusal :=
  .next (s.respond (.error e))

/-- R12, R245: a pure operation ends with its result or with its error. -/
def State.answer {α : Type} (f : α → Result) (r : Except ErrorKind α) (s : State) :
    Host.Outcome State Fault Refusal :=
  match r with
  | .ok a => .next (s.respond (.ok (f a)))
  | .error e => s.raise e

end Sys2Proof.Machine
end

