-- ==== Sys2Proof/Machine/Checksum.lean ====
section
/-! DEFINITION. The Checksum Unit's two operations (spec/41_checksum.md). -/

namespace Sys2Proof.Machine

/-- R131: CK_COMPUTE. -/
def execCkCompute (bytes : Bytes) (s : State) : Host.Outcome State Fault Refusal :=
  s.answer .checksum (.ok (s.params.ck bytes))

/-- R132: CK_VERIFY. A mismatch is the result `false`, not an error. -/
def execCkVerify (bytes : Bytes) (claimed : Byte) (s : State) : Host.Outcome State Fault Refusal :=
  s.answer .verdict (.ok (decide (s.params.ck bytes = claimed)))

end Sys2Proof.Machine
end

