-- ==== Sys2Proof/Machine/PacketFrame.lean ====
section
/-! DEFINITION. The Packet Frame's two operations (spec/42_packet_frame.md). -/

namespace Sys2Proof.Machine

/-- R84, R147: the bytes the checksum covers: length, device_id, message_type, payload. -/
def frameBody (deviceId messageType : Byte) (payload : Bytes) : Bytes :=
  [BitVec.ofNat 8 payload.length, deviceId, messageType] ++ payload

/-- R81, R147: the Frame. -/
def frameBytes (P : Params) (deviceId messageType : Byte) (payload : Bytes) : Bytes :=
  [P.sync] ++ frameBody deviceId messageType payload ++ [P.ck (frameBody deviceId messageType payload)]

/-- R147: FRAME_ENCODE, its three tests in the order written. -/
def frameEncode (P : Params) (deviceId messageType : Int) (payload : Bytes) : Except ErrorKind Bytes :=
  if deviceId < 0 ∨ deviceId > 255 then .error .valueOutOfRange
  else if messageType < 0 ∨ messageType > 255 then .error .valueOutOfRange
  else if payload.length > P.maxPayload then .error .payloadTooLarge
  else .ok (frameBytes P (BitVec.ofInt 8 deviceId) (BitVec.ofInt 8 messageType) payload)

/-- R150: FRAME_DECODE, its eleven lines in order. -/
def frameDecode (P : Params) (bytes : Bytes) : Except ErrorKind Packet :=
  if bytes.length = 0 then .error .incompleteFrame
  else if byteAt bytes 0 ≠ P.sync then .error .syncMismatch
  else if bytes.length < 2 then .error .incompleteFrame
  else
    let len := (byteAt bytes 1).toNat
    if len > P.maxPayload then .error .payloadTooLarge
    else if bytes.length < 5 + len then .error .incompleteFrame
    else if P.ck (slice bytes 1 (4 + len)) ≠ byteAt bytes (4 + len) then .error .checksumMismatch
    else
      match P.reg (byteAt bytes 3) with
      | none => .error .unknownMessageType
      | some shape =>
        if shape.accepts len then
          .ok { deviceId := byteAt bytes 2
                messageType := byteAt bytes 3
                payload := slice bytes 4 (4 + len) }
        else .error .payloadShapeMismatch

/-- R147: FRAME_ENCODE. -/
def execFrameEncode (deviceId messageType : Int) (payload : Bytes) (s : State) :
    Host.Outcome State Fault Refusal :=
  s.answer .bytes (frameEncode s.params deviceId messageType payload)

/-- R150: FRAME_DECODE. -/
def execFrameDecode (bytes : Bytes) (s : State) : Host.Outcome State Fault Refusal :=
  s.answer .packet (frameDecode s.params bytes)

end Sys2Proof.Machine
end

