-- ==== Sys2Proof/Machine/Decoder.lean ====
section
/-! DEFINITION. The Decoder (Stream Reassembler): its transitions, the loop of FEED, the chunk form and the batch
formulation (spec/43_decoder.md). -/

namespace Sys2Proof.Machine

/-- R173 to R175, R179, R180, the rows of R181 that scan a byte: the Decoder State after the byte `x` and the events
emitted. In Validating no byte is scanned (R172: unreachable at the top of the loop); `scanTurn` validates first. -/
def scanByte (P : Params) (d : Decoder) (x : Byte) : Decoder × List Event :=
  match d.st with
  | .seeking => if x = P.sync then ({ st := .readingHeader, buf := [x] }, []) else (d, [])
  | .readingHeader =>
    let buf := d.buf ++ [x]
    ({ st := if buf.length = 4 then .readingPayload else .readingHeader, buf := buf }, [])
  | .readingPayload =>
    if d.buf.length = P.maxFrame then (Decoder.reset, [.frameRejected .payloadTooLarge])
    else
      let buf := d.buf ++ [x]
      ({ st := if buf.length = 5 + (byteAt buf 1).toNat then .validating else .readingPayload, buf := buf }, [])
  | .validating => (d, [])

/-- R177, R178, the two Validating rows of R181: an accepted frame is consumed whole; after a rejection the
candidate's bytes but its sync byte go to the front of the replay queue (R176). -/
def validate (P : Params) (c : Scan) : Scan :=
  match frameDecode P c.dec.buf with
  | .ok p => { dec := Decoder.reset, q := c.q, events := c.events ++ [.packet p] }
  | .error e => { dec := Decoder.reset, q := c.dec.buf.drop 1 ++ c.q, events := c.events ++ [.frameRejected e] }

/-- R172: the loop is done when no byte is waiting and no candidate is waiting to be validated. -/
abbrev Scan.Done (c : Scan) : Prop := c.q = [] ∧ c.dec.st ≠ .validating

/-- R172, R181: one transition: validation where a candidate is complete, else the next byte of the queue is
scanned. DEDUCED, log entry 11: R172 validates in the turn that completes the candidate, R181 as a row of its own. -/
def scanTurn (P : Params) (c : Scan) : Scan :=
  if c.dec.st = .validating then validate P c
  else
    match c.q with
    | [] => c
    | x :: q =>
      let r := scanByte P c.dec x
      { dec := r.1, q := q, events := c.events ++ r.2 }

/-- R172: the loop, with a bound on the number of turns. -/
def scanLoop (P : Params) : Nat → Scan → Scan
  | 0, c => c
  | n + 1, c => if c.Done then c else scanLoop P n (scanTurn P c)

/-- R182: the number of turns that is always enough: twice the rank of the pair (`T`, `|q|`) with
`T = |buf| + |q|`, and one more for a validation. -/
def Scan.bound (c : Scan) : Nat :=
  let t := c.dec.buf.length + c.q.length
  2 * (t * (t + 1) + c.q.length) + 1

/-- R172: FEED's start: the queue is the one input byte. -/
def Scan.start (d : Decoder) (b : Byte) : Scan := { dec := d, q := [b], events := [] }

/-- R172: what FEED does to a Decoder State, and the events it returns. -/
def Decoder.feed (P : Params) (d : Decoder) (b : Byte) : Decoder × List Event :=
  let c := scanLoop P (Scan.start d b).bound (Scan.start d b)
  (c.dec, c.events)

/-- R101, R183: FEED_CHUNK: one FEED per byte, the event lists in order. -/
def Decoder.feedChunk (P : Params) (d : Decoder) : Bytes → Decoder × List Event
  | [] => (d, [])
  | b :: bs =>
    let r := d.feed P b
    let r' := Decoder.feedChunk P r.1 bs
    (r'.1, r.2 ++ r'.2)

/-- R185: the batch formulation, a cross-check and no second definition: the events of the bytes `s` not yet
disposed of, and the bytes retained. Each turn disposes of a byte, so `|s|` turns are enough. -/
def batchScan (P : Params) : Nat → Bytes → List Event × Bytes
  | 0, s => ([], s)
  | n + 1, s =>
    if s = [] then ([], [])
    else if byteAt s 0 ≠ P.sync then batchScan P n (s.drop 1)
    else if s.length < 4 then ([], s)
    else
      let len := (byteAt s 1).toNat
      if len > P.maxPayload then
        if s.length ≤ P.maxFrame then ([], s)
        else
          let r := batchScan P n (s.drop (P.maxFrame + 1))
          (.frameRejected .payloadTooLarge :: r.1, r.2)
      else if s.length < 5 + len then ([], s)
      else
        match frameDecode P (s.take (5 + len)) with
        | .ok p =>
          let r := batchScan P n (s.drop (5 + len))
          (.packet p :: r.1, r.2)
        | .error e =>
          let r := batchScan P n (s.drop 1)
          (.frameRejected e :: r.1, r.2)

/-- R30: the position that goes with a buffer in a quiescent Decoder State. -/
def Decoder.ofBuf (buf : Bytes) : Decoder :=
  { st := if buf.length = 0 then .seeking else if buf.length ≤ 3 then .readingHeader else .readingPayload
    buf := buf }

/-- R172: FEED. It has no error result; it is defined in every quiescent Decoder State (R30), and a Decoder State
that is not quiescent, which no run reaches, has no step (log entry 9). -/
def execFeed (b : Byte) (s : State) : Host.Outcome State Fault Refusal :=
  if s.dec.Quiescent s.params then
    let r := s.dec.feed s.params b
    .next ((s.setDecoder r.1).respond (.ok (.events r.2)))
  else .refused .decoderNotQuiescent

end Sys2Proof.Machine
end

