-- ==== Sys2Proof/Machine/FieldCodec.lean ====
section
/-! DEFINITION. The Field Codec's eight operations (spec/40_field_codec.md). -/

namespace Sys2Proof.Machine

/-- R112: ENC_U8. One byte is the same in both byte orders. -/
def execEncU8 (value : Int) (s : State) : Host.Outcome State Fault Refusal :=
  s.answer .bytes (encodeUInt s.params.endian 1 value)

/-- R113: ENC_U16. -/
def execEncU16 (value : Int) (s : State) : Host.Outcome State Fault Refusal :=
  s.answer .bytes (encodeUInt s.params.endian 2 value)

/-- R114: ENC_U32. -/
def execEncU32 (value : Int) (s : State) : Host.Outcome State Fault Refusal :=
  s.answer .bytes (encodeUInt s.params.endian 4 value)

/-- R115: ENC_BYTES. -/
def execEncBytes (data : Bytes) (s : State) : Host.Outcome State Fault Refusal :=
  s.answer .bytes (.ok data)

/-- R116: DEC_U8. -/
def execDecU8 (bytes : Bytes) (off : Nat) (s : State) : Host.Outcome State Fault Refusal :=
  s.answer (fun r => .value r.1 r.2) (decodeUInt s.params.endian 1 bytes off)

/-- R117: DEC_U16. -/
def execDecU16 (bytes : Bytes) (off : Nat) (s : State) : Host.Outcome State Fault Refusal :=
  s.answer (fun r => .value r.1 r.2) (decodeUInt s.params.endian 2 bytes off)

/-- R118: DEC_U32. -/
def execDecU32 (bytes : Bytes) (off : Nat) (s : State) : Host.Outcome State Fault Refusal :=
  s.answer (fun r => .value r.1 r.2) (decodeUInt s.params.endian 4 bytes off)

/-- R119: DEC_BYTES. -/
def execDecBytes (bytes : Bytes) (off n : Nat) (s : State) : Host.Outcome State Fault Refusal :=
  s.answer (fun r => .data r.1 r.2) (decodeRaw bytes off n)

end Sys2Proof.Machine
end

