-- ==== Sys2Proof/Machine/System.lean ====
section
/-! DEFINITION. The registry lookup, RESET and the reserved code (spec/44_registry_and_system.md,
spec/30_encoding.md rule R96). -/

namespace Sys2Proof.Machine

/-- R211: REG_LOOKUP. An unregistered code is the result `none`, not an error. -/
def execRegLookup (t : Byte) (s : State) : Host.Outcome State Fault Refusal :=
  s.answer .shape (.ok (s.params.reg t))

/-- R215: RESET. No event, even when a partial frame is discarded. -/
def execReset (s : State) : Host.Outcome State Fault Refusal :=
  .next (s.resetDecoder.respond (.ok .nothing))

/-- R96: the reserved code 0xF has no step and no result. -/
def execReservedF (_s : State) : Host.Outcome State Fault Refusal :=
  .refused .reservedOperation

end Sys2Proof.Machine
end

