-- ==== Sys2Proof/Machine/Dispatch.lean ====
section
/-! DEFINITION. One arm per operation of HPK-OPS and one for the reserved code (spec/30_encoding.md rule R95). -/

namespace Sys2Proof.Machine

def exec (i : Instr) (s : State) : Host.Outcome State Fault Refusal :=
  match i with
  | .encU8 value => Sys2Proof.Machine.execEncU8 value s
  | .encU16 value => Sys2Proof.Machine.execEncU16 value s
  | .encU32 value => Sys2Proof.Machine.execEncU32 value s
  | .encBytes data => Sys2Proof.Machine.execEncBytes data s
  | .decU8 bytes off => Sys2Proof.Machine.execDecU8 bytes off s
  | .decU16 bytes off => Sys2Proof.Machine.execDecU16 bytes off s
  | .decU32 bytes off => Sys2Proof.Machine.execDecU32 bytes off s
  | .decBytes bytes off n => Sys2Proof.Machine.execDecBytes bytes off n s
  | .ckCompute bytes => Sys2Proof.Machine.execCkCompute bytes s
  | .ckVerify bytes claimed => Sys2Proof.Machine.execCkVerify bytes claimed s
  | .frameEncode deviceId messageType payload => Sys2Proof.Machine.execFrameEncode deviceId messageType payload s
  | .frameDecode bytes => Sys2Proof.Machine.execFrameDecode bytes s
  | .feed b => Sys2Proof.Machine.execFeed b s
  | .regLookup t => Sys2Proof.Machine.execRegLookup t s
  | .reset => Sys2Proof.Machine.execReset s
  | .reservedF => Sys2Proof.Machine.execReservedF s

end Sys2Proof.Machine
end

