-- ==== Sys2Proof/Machine/Step.lean ====
section
/-! DEFINITION. One step of the machine: the oldest input is taken and performed (spec/20_memory.md rules R62,
R66). -/

namespace Sys2Proof.Machine

/-- R62, R66: each operation is one atomic step, in issue order. With nothing issued the block does nothing (R240,
R259). A block whose CKSEL selects no algorithm is refused (R39, U9). -/
def step (s : State) : Host.Outcome State Fault Refusal :=
  if s.Configured then
    match s.takeInput with
    | none => .next s
    | some (.command c, s') => exec (decode c) s'
    | some (.hardwareReset, s') => .next s'.hardwareReset
  else .refused .reservedChecksumSelect

/-- The table word's command issued ahead of everything else, so that the next step performs it (log entry 4). -/
def State.withFetchWord (s : State) (nbits w : Nat) : State :=
  { s with inputs := .command (commandOfWord nbits w) :: s.inputs }

end Sys2Proof.Machine
end

