-- ==== Sys2Proof/Safety.lean ====
section
/-! DEFINITION. What a safe state is, in the terms the statements use. -/

namespace Sys2Proof

open Sys2Proof.Machine

/-- R30, R39, R41: what holds between operations: the configuration selects a checksum algorithm and its reserved
bits are 0, the registry table has its one form, and the Decoder State is quiescent. -/
abbrev Inv (s : State) : Prop :=
  s.Configured ∧ cfgReserved s.cfg = 0#12 ∧ Registry.WF s.reg ∧ s.dec.Quiescent s.params

/-- R96: an input that asks for something the block does: a command whose code selects an operation, or hardware
reset. -/
def Machine.Input.selects : Input → Bool
  | .command c => (decode c).wellFormed
  | .hardwareReset => true

/-- A state from which no step is refused: the invariant holds and no reserved code was issued. -/
abbrev SafeState (s : State) : Prop :=
  Inv s ∧ ∀ i ∈ s.inputs, i.selects = true

end Sys2Proof
end

