-- ==== Sys2Proof/Certificates/Slice0/Obligations.lean ====
section
/-! DEFINITION. The statements for the provers. Each docstring names the rules of spec/ it formalises. -/

open Sys2Proof Sys2Proof.Machine

namespace Sys2Proof

/-- The operation completes: the next state is the old one with the response `r` returned and nothing else changed. -/
def Returns (i : Instr) (s : State) (r : Response) : Prop :=
  exec i s = .next { s with responses := s.responses ++ [r] }

/-- The operation completes: the next state is the old one with the Decoder State `d` and the response `r` returned,
and nothing else changed. -/
def ReturnsWith (i : Instr) (s : State) (d : Decoder) (r : Response) : Prop :=
  exec i s = .next { s with dec := d, responses := s.responses ++ [r] }

/-- R21: the operations that neither read nor write the Decoder State. -/
def IsPure : Instr → Bool
  | .feed _ => false
  | .reset => false
  | .reservedF => false
  | _ => true

/-- R150, lines 1 to 6: the operand begins with a whole Frame whose length byte is within the maximum. -/
def WholeFrame (P : Params) (f : Bytes) : Prop :=
  f.head? = some P.sync ∧ 2 ≤ f.length ∧ (byteAt f 1).toNat ≤ P.maxPayload ∧ 5 + (byteAt f 1).toNat ≤ f.length

/-- R84: the checksum byte of a whole Frame is `CK` of the bytes it covers. -/
def ChecksumHolds (P : Params) (f : Bytes) : Prop :=
  P.ck ((f.drop 1).take (3 + (byteAt f 1).toNat)) = byteAt f (4 + (byteAt f 1).toNat)

/-- R21: what the two states must agree on for the operation to answer alike: the columns of the table that say
"yes" in the operation's row. -/
def AgreeOnReads (i : Instr) (s s' : State) : Prop :=
  match i with
  | .encU8 _ => True
  | .encU16 _ => s.params.endian = s'.params.endian
  | .encU32 _ => s.params.endian = s'.params.endian
  | .encBytes _ => True
  | .decU8 _ _ => True
  | .decU16 _ _ => s.params.endian = s'.params.endian
  | .decU32 _ _ => s.params.endian = s'.params.endian
  | .decBytes _ _ _ => True
  | .ckCompute _ => s.params.ck = s'.params.ck
  | .ckVerify _ _ => s.params.ck = s'.params.ck
  | .frameEncode _ _ _ =>
    s.params.sync = s'.params.sync ∧ s.params.maxp = s'.params.maxp ∧ s.params.ck = s'.params.ck
  | .frameDecode _ =>
    s.params.sync = s'.params.sync ∧ s.params.maxp = s'.params.maxp ∧ s.params.ck = s'.params.ck ∧
      s.params.reg = s'.params.reg
  | .feed _ =>
    s.dec = s'.dec ∧ s.params.sync = s'.params.sync ∧ s.params.maxp = s'.params.maxp ∧
      s.params.ck = s'.params.ck ∧ s.params.reg = s'.params.reg
  | .regLookup _ => s.params.reg = s'.params.reg
  | .reset => True
  | .reservedF => True

/-- One byte with bit `j` inverted. -/
def flipBit (b : Byte) (j : Nat) : Byte := b ^^^ BitVec.ofNat 8 (2 ^ j)

/-- The events a response carries. -/
def eventsOf : Response → List Event
  | .ok (.events es) => es
  | _ => []

end Sys2Proof

/-! ### Encoding -/

/-- R95: each operation's command record decodes to it, and no code is read as another. -/
def Obligations.EveryOperationDecodesFromItsCommand : Prop :=
  (∀ i : Instr, decode (encode i) = i) ∧ (∀ c : Command, (encode (decode c)).op = c.op)

/-- R95, R96: the sixteen codes of the table, with operands of zeros. -/
def Obligations.TableWordsDecodeToTheirOperations : Prop :=
  decodeTableWord 8 0x0 = some (.encU8 0) ∧ decodeTableWord 8 0x1 = some (.encU16 0) ∧
  decodeTableWord 8 0x2 = some (.encU32 0) ∧ decodeTableWord 8 0x3 = some (.encBytes []) ∧
  decodeTableWord 8 0x4 = some (.decU8 [] 0) ∧ decodeTableWord 8 0x5 = some (.decU16 [] 0) ∧
  decodeTableWord 8 0x6 = some (.decU32 [] 0) ∧ decodeTableWord 8 0x7 = some (.decBytes [] 0 0) ∧
  decodeTableWord 8 0x8 = some (.ckCompute []) ∧ decodeTableWord 8 0x9 = some (.ckVerify [] 0#8) ∧
  decodeTableWord 8 0xA = some (.frameEncode 0 0 []) ∧ decodeTableWord 8 0xB = some (.frameDecode []) ∧
  decodeTableWord 8 0xC = some (.feed 0#8) ∧ decodeTableWord 8 0xD = some (.regLookup 0#8) ∧
  decodeTableWord 8 0xE = some .reset ∧ decodeTableWord 8 0xF = some .reservedF

/-- R92: every event FEED can return (a packet whose length fits the field; a reason R92 lists) is read back from
its EVT record, and the fields stand at the bits R92 gives. -/
def Obligations.EventRecordsDecodeBack : Prop :=
  (∀ p : Packet, p.payload.length ≤ 255 →
    evtDecode (evtEncode (.packet p)).1 (evtEncode (.packet p)).2 = some (.packet p) ∧
    (evtEncode (.packet p)).1.extractLsb' 0 1 = 0#1 ∧
    (evtEncode (.packet p)).1.extractLsb' 1 4 = 0#4 ∧
    (evtEncode (.packet p)).1.extractLsb' 5 8 = p.deviceId ∧
    (evtEncode (.packet p)).1.extractLsb' 13 8 = p.messageType ∧
    ((evtEncode (.packet p)).1.extractLsb' 21 8).toNat = p.payload.length ∧
    (evtEncode (.packet p)).2 = p.payload) ∧
  (∀ e : ErrorKind,
    e = .payloadTooLarge ∨ e = .checksumMismatch ∨ e = .unknownMessageType ∨ e = .payloadShapeMismatch →
    evtDecode (evtEncode (.frameRejected e)).1 (evtEncode (.frameRejected e)).2 = some (.frameRejected e) ∧
    (evtEncode (.frameRejected e)).1.extractLsb' 0 1 = 1#1 ∧
    (evtEncode (.frameRejected e)).1.extractLsb' 1 4 = e.code ∧
    (evtEncode (.frameRejected e)).1.extractLsb' 5 24 = 0#24 ∧
    (evtEncode (.frameRejected e)).2 = [])

/-- R92: and only one EVT record stands for an event. -/
def Obligations.EventRecordsAreUnambiguous : Prop :=
  ∀ (h : BitVec 29) (payload : Bytes) (ev : Event), evtDecode h payload = some ev → evtEncode ev = (h, payload)

/-- R231: the eight codes, one each, and 0 for success. R25: the four values of the 2-bit position register, whose
encoding is the spec's own choice (D31), and that no two positions share one. -/
def Obligations.ErrorCodesNameTheEightKinds : Prop :=
  ErrorKind.code .valueOutOfRange = 1#4 ∧ ErrorKind.code .bufferTooShort = 2#4 ∧
  ErrorKind.code .payloadTooLarge = 3#4 ∧ ErrorKind.code .syncMismatch = 4#4 ∧
  ErrorKind.code .incompleteFrame = 5#4 ∧ ErrorKind.code .checksumMismatch = 6#4 ∧
  ErrorKind.code .unknownMessageType = 7#4 ∧ ErrorKind.code .payloadShapeMismatch = 8#4 ∧
  (∀ e : ErrorKind, ErrorKind.ofCode e.code = some e) ∧
  (∀ r : Response, r.status = 0#4 ↔ ∃ x, r = .ok x) ∧
  St.code .seeking = 0#2 ∧ St.code .readingHeader = 1#2 ∧ St.code .readingPayload = 2#2 ∧
  St.code .validating = 3#2 ∧
  (∀ p : St, St.ofCode p.code = p) ∧ (∀ c : BitVec 2, (St.ofCode c).code = c)

/-- R39: the fields of the CFG word an integrator straps stand at the bits R39 gives and are what the block runs
with; bits 31:20 are 0. U9: in every state whose CKSEL (bits 19:17) is 2 to 7 and whose algorithm was not pinned from
outside, whatever its inputs, the step is refused. -/
def Obligations.CfgWordHoldsTheConfiguration : Prop :=
  (∀ (sync maxp : Byte) (e : Endian) (sel : BitVec 3) (reg : Registry),
    let s := State.ofConfig (cfgWord sync maxp e sel) .cksel reg
    s.cfg.extractLsb' 0 8 = sync ∧ s.cfg.extractLsb' 8 8 = maxp ∧
    s.cfg.extractLsb' 16 1 = (if e = .be then 1#1 else 0#1) ∧ s.cfg.extractLsb' 17 3 = sel ∧
    s.cfg.extractLsb' 20 12 = 0#12 ∧
    s.params.sync = sync ∧ s.params.maxPayload = maxp.toNat ∧ s.params.endian = e ∧
    (sel = 0#3 → s.params.ck = xor8) ∧ (sel = 1#3 → s.params.ck = add8)) ∧
  (∀ t : State, t.ckSource = .cksel → 2 ≤ (t.cfg.extractLsb' 17 3).toNat →
    step t = .refused .reservedChecksumSelect)

/-- R41, R213: an entry is `valid` at bit 16, `max` at 15:8 and `min` at 7:0, and is read at those bits, with 15:0
ignored where `valid` is 0. An absent type is stored as an entry that registers none; a Shape with bounds up to 255 is
stored as an entry that accepts exactly the lengths the Shape accepts; a Shape with a bound above 255 is not stored. -/
def Obligations.RegistryEntriesKeepWhatAShapeAccepts : Prop :=
  (∀ w : BitVec 17, entryShape w =
    if w.extractLsb' 16 1 = 1#1 then some (.variableLen (w.extractLsb' 0 8).toNat (w.extractLsb' 8 8).toNat)
    else none) ∧
  (∃ w, shapeEntry none = some w ∧ w.extractLsb' 16 1 = 0#1 ∧ entryShape w = none) ∧
  (∀ min max, min ≤ 255 → max ≤ 255 → ∃ w, shapeEntry (some (.variableLen min max)) = some w ∧
    w.extractLsb' 16 1 = 1#1 ∧ (w.extractLsb' 8 8).toNat = max ∧ (w.extractLsb' 0 8).toNat = min) ∧
  (∀ n, n ≤ 255 → ∃ w, shapeEntry (some (.fixedLen n)) = some w ∧
    w.extractLsb' 16 1 = 1#1 ∧ (w.extractLsb' 8 8).toNat = n ∧ (w.extractLsb' 0 8).toNat = n) ∧
  (∀ shape w, shapeEntry (some shape) = some w →
    ∃ stored, entryShape w = some stored ∧ ∀ len, stored.accepts len = shape.accepts len) ∧
  (∀ n, shapeEntry (some (.fixedLen n)) = shapeEntry (some (.variableLen n n))) ∧
  (∀ min max, min > 255 ∨ max > 255 → shapeEntry (some (.variableLen min max)) = none) ∧
  (∀ n, n > 255 → shapeEntry (some (.fixedLen n)) = none)

/-- R8, U5: every function from codes to Shapes is the lookup of a table in the one form. -/
def Obligations.EveryRegistryFunctionHasATable : Prop :=
  ∀ f : Byte → Option Shape, Registry.WF (Registry.ofFun f) ∧ ∀ t, Registry.lookup (Registry.ofFun f) t = f t

/-! ### Field Codec -/

/-- R112. -/
def Obligations.EncU8ReturnsTheByteOrValueOutOfRange : Prop :=
  (∀ c : Command, c.op = 0x0#4 → decode c = .encU8 c.value) ∧
  ∀ (v : Int) (s : State), Returns (.encU8 v) s
    (if 0 ≤ v ∧ v < 256 then .ok (.bytes [BitVec.ofInt 8 v]) else .error .valueOutOfRange)

/-- R113. -/
def Obligations.EncU16ReturnsTwoBytesInByteOrder : Prop :=
  (∀ c : Command, c.op = 0x1#4 → decode c = .encU16 c.value) ∧
  ∀ (v : Int) (s : State), Returns (.encU16 v) s
    (if 0 ≤ v ∧ v < 65536 then
      .ok (.bytes (match s.params.endian with
        | .le => [BitVec.ofInt 8 (v % 256), BitVec.ofInt 8 (v / 256)]
        | .be => [BitVec.ofInt 8 (v / 256), BitVec.ofInt 8 (v % 256)]))
    else .error .valueOutOfRange)

/-- R114. -/
def Obligations.EncU32ReturnsFourBytesInByteOrder : Prop :=
  (∀ c : Command, c.op = 0x2#4 → decode c = .encU32 c.value) ∧
  ∀ (v : Int) (s : State), Returns (.encU32 v) s
    (if 0 ≤ v ∧ v < 4294967296 then
      .ok (.bytes (match s.params.endian with
        | .le => [BitVec.ofInt 8 (v % 256), BitVec.ofInt 8 ((v / 256) % 256),
            BitVec.ofInt 8 ((v / 65536) % 256), BitVec.ofInt 8 (v / 16777216)]
        | .be => [BitVec.ofInt 8 (v / 16777216), BitVec.ofInt 8 ((v / 65536) % 256),
            BitVec.ofInt 8 ((v / 256) % 256), BitVec.ofInt 8 (v % 256)]))
    else .error .valueOutOfRange)

/-- R115. -/
def Obligations.EncBytesReturnsItsOperand : Prop :=
  (∀ c : Command, c.op = 0x3#4 → decode c = .encBytes c.bytes) ∧
  ∀ (data : Bytes) (s : State), Returns (.encBytes data) s (.ok (.bytes data))

/-- R116. -/
def Obligations.DecU8ReturnsTheByteOrBufferTooShort : Prop :=
  (∀ c : Command, c.op = 0x4#4 → decode c = .decU8 c.bytes c.off) ∧
  ∀ (bytes : Bytes) (off : Nat) (s : State), Returns (.decU8 bytes off) s
    (match bytes[off]? with
      | some b => .ok (.value b.toNat (off + 1))
      | none => .error .bufferTooShort)

/-- R117. -/
def Obligations.DecU16ReturnsTheValueOrBufferTooShort : Prop :=
  (∀ c : Command, c.op = 0x5#4 → decode c = .decU16 c.bytes c.off) ∧
  ∀ (bytes : Bytes) (off : Nat) (s : State), Returns (.decU16 bytes off) s
    (match bytes[off]?, bytes[off + 1]? with
      | some b0, some b1 =>
        .ok (.value (match s.params.endian with
          | .le => b0.toNat + 256 * b1.toNat
          | .be => 256 * b0.toNat + b1.toNat) (off + 2))
      | _, _ => .error .bufferTooShort)

/-- R118. -/
def Obligations.DecU32ReturnsTheValueOrBufferTooShort : Prop :=
  (∀ c : Command, c.op = 0x6#4 → decode c = .decU32 c.bytes c.off) ∧
  ∀ (bytes : Bytes) (off : Nat) (s : State), Returns (.decU32 bytes off) s
    (match bytes[off]?, bytes[off + 1]?, bytes[off + 2]?, bytes[off + 3]? with
      | some b0, some b1, some b2, some b3 =>
        .ok (.value (match s.params.endian with
          | .le => b0.toNat + 256 * b1.toNat + 65536 * b2.toNat + 16777216 * b3.toNat
          | .be => 16777216 * b0.toNat + 65536 * b1.toNat + 256 * b2.toNat + b3.toNat) (off + 4))
      | _, _, _, _ => .error .bufferTooShort)

/-- R119. -/
def Obligations.DecBytesReturnsTheSliceOrBufferTooShort : Prop :=
  (∀ c : Command, c.op = 0x7#4 → decode c = .decBytes c.bytes c.off c.n) ∧
  (∀ (a data b : Bytes) (s : State),
    Returns (.decBytes (a ++ data ++ b) a.length data.length) s (.ok (.data data (a.length + data.length)))) ∧
  (∀ (bytes : Bytes) (off n : Nat) (s : State), off + n > bytes.length →
    Returns (.decBytes bytes off n) s (.error .bufferTooShort))

/-- R121: what is encoded is decoded back, what is decoded is encoded back, and the other byte order reads the
reversed bytes. -/
def Obligations.IntegerCodecRoundTrips : Prop :=
  ∀ s : State,
    (∀ v : Int, 0 ≤ v → v < 256 → ∃ bs, Returns (.encU8 v) s (.ok (.bytes bs)) ∧
      Returns (.decU8 bs 0) s (.ok (.value v.toNat 1))) ∧
    (∀ v : Int, 0 ≤ v → v < 65536 → ∃ bs, Returns (.encU16 v) s (.ok (.bytes bs)) ∧
      Returns (.decU16 bs 0) s (.ok (.value v.toNat 2))) ∧
    (∀ v : Int, 0 ≤ v → v < 4294967296 → ∃ bs, Returns (.encU32 v) s (.ok (.bytes bs)) ∧
      Returns (.decU32 bs 0) s (.ok (.value v.toNat 4))) ∧
    (∀ bs : Bytes, bs.length = 1 → ∃ v : Nat, Returns (.decU8 bs 0) s (.ok (.value v 1)) ∧
      Returns (.encU8 v) s (.ok (.bytes bs))) ∧
    (∀ bs : Bytes, bs.length = 2 → ∃ v : Nat, Returns (.decU16 bs 0) s (.ok (.value v 2)) ∧
      Returns (.encU16 v) s (.ok (.bytes bs))) ∧
    (∀ bs : Bytes, bs.length = 4 → ∃ v : Nat, Returns (.decU32 bs 0) s (.ok (.value v 4)) ∧
      Returns (.encU32 v) s (.ok (.bytes bs))) ∧
    (∀ data : Bytes, Returns (.encBytes data) s (.ok (.bytes data)) ∧
      Returns (.decBytes data 0 data.length) s (.ok (.data data data.length))) ∧
    (∀ s' : State, s.params.endian ≠ s'.params.endian →
      (∀ (bs : Bytes) (v : Nat), bs.length = 2 → Returns (.decU16 bs 0) s (.ok (.value v 2)) →
        Returns (.decU16 bs.reverse 0) s' (.ok (.value v 2))) ∧
      (∀ (bs : Bytes) (v : Nat), bs.length = 4 → Returns (.decU32 bs 0) s (.ok (.value v 4)) →
        Returns (.decU32 bs.reverse 0) s' (.ok (.value v 4))))

/-- R122: a decode behind a sequence `a` answers as at the start of what follows, with `next_off` larger by `|a|`. -/
def Obligations.DecodesChainByNextOffset : Prop :=
  ∀ (s : State) (a b : Bytes),
    (∀ v n, Returns (.decU8 b 0) s (.ok (.value v n)) →
      n = 1 ∧ Returns (.decU8 (a ++ b) a.length) s (.ok (.value v (a.length + n)))) ∧
    (∀ v n, Returns (.decU16 b 0) s (.ok (.value v n)) →
      n = 2 ∧ Returns (.decU16 (a ++ b) a.length) s (.ok (.value v (a.length + n)))) ∧
    (∀ v n, Returns (.decU32 b 0) s (.ok (.value v n)) →
      n = 4 ∧ Returns (.decU32 (a ++ b) a.length) s (.ok (.value v (a.length + n)))) ∧
    (∀ k d n, Returns (.decBytes b 0 k) s (.ok (.data d n)) →
      n = k ∧ Returns (.decBytes (a ++ b) a.length k) s (.ok (.data d (a.length + n)))) ∧
    (∀ e, Returns (.decU8 b 0) s (.error e) → Returns (.decU8 (a ++ b) a.length) s (.error e)) ∧
    (∀ e, Returns (.decU16 b 0) s (.error e) → Returns (.decU16 (a ++ b) a.length) s (.error e)) ∧
    (∀ e, Returns (.decU32 b 0) s (.error e) → Returns (.decU32 (a ++ b) a.length) s (.error e)) ∧
    (∀ k e, Returns (.decBytes b 0 k) s (.error e) → Returns (.decBytes (a ++ b) a.length k) s (.error e))

/-- R58: the four bytes of ENC_U32 read by four DEC_U8 and by two DEC_U16. -/
def Obligations.MixedWidthAccessSeesTheSameBytes : Prop :=
  ∀ (s : State) (v : Int) (bs : Bytes), Returns (.encU32 v) s (.ok (.bytes bs)) →
    ∃ b0 b1 b2 b3 : Byte, bs = [b0, b1, b2, b3] ∧
      Returns (.decU8 bs 0) s (.ok (.value b0.toNat 1)) ∧ Returns (.decU8 bs 1) s (.ok (.value b1.toNat 2)) ∧
      Returns (.decU8 bs 2) s (.ok (.value b2.toNat 3)) ∧ Returns (.decU8 bs 3) s (.ok (.value b3.toNat 4)) ∧
      ∃ h0 h1 : Nat, Returns (.decU16 bs 0) s (.ok (.value h0 2)) ∧ Returns (.decU16 bs 2) s (.ok (.value h1 4)) ∧
        v = (match s.params.endian with
          | .le => (h0 + 65536 * h1 : Nat)
          | .be => (65536 * h0 + h1 : Nat) : Nat)

/-! ### Checksum Unit -/

/-- R131. -/
def Obligations.CkComputeReturnsTheChecksum : Prop :=
  (∀ c : Command, c.op = 0x8#4 → decode c = .ckCompute c.bytes) ∧
  (∀ (bytes : Bytes) (s : State), Returns (.ckCompute bytes) s (.ok (.checksum (s.params.ck bytes)))) ∧
  xor8 [] = 0x00#8 ∧ add8 [] = 0x00#8 ∧
  (∀ s : State, s.params.ck = xor8 →
    Returns (.ckCompute [0x02#8, 0x03#8, 0x01#8, 0x01#8, 0x02#8]) s (.ok (.checksum 0x03#8))) ∧
  (∀ s : State, s.params.ck = add8 →
    Returns (.ckCompute [0x02#8, 0x03#8, 0x01#8, 0x01#8, 0x02#8]) s (.ok (.checksum 0x09#8)))

/-- R132. -/
def Obligations.CkVerifyReturnsWhetherTheChecksumIsClaimed : Prop :=
  (∀ c : Command, c.op = 0x9#4 → decode c = .ckVerify c.bytes c.byte) ∧
  ∀ (bytes : Bytes) (claimed : Byte) (s : State),
    (s.params.ck bytes = claimed → Returns (.ckVerify bytes claimed) s (.ok (.verdict true))) ∧
    (s.params.ck bytes ≠ claimed → Returns (.ckVerify bytes claimed) s (.ok (.verdict false)))

/-- R136: a computed checksum verifies, no other does, and the checksum byte of every encoded Frame verifies. -/
def Obligations.ComputedChecksumsVerify : Prop :=
  ∀ s : State,
    (∀ (bytes : Bytes) (c : Byte), Returns (.ckCompute bytes) s (.ok (.checksum c)) →
      Returns (.ckVerify bytes c) s (.ok (.verdict true)) ∧
      ∀ c', c' ≠ c → Returns (.ckVerify bytes c') s (.ok (.verdict false))) ∧
    (∀ (d t : Int) (payload f : Bytes), Returns (.frameEncode d t payload) s (.ok (.bytes f)) →
      Returns (.ckVerify (slice f 1 (f.length - 1)) (byteAt f (f.length - 1))) s (.ok (.verdict true)))

/-- R133, R137: XOR8, the properties R133 lists, and its value over a concatenation. -/
def Obligations.Xor8IsTheExclusiveOrOfAllBytes : Prop :=
  xor8 [] = 0x00#8 ∧
  (∀ (s : Bytes) (b : Byte), xor8 (s ++ [b]) = xor8 s ^^^ b) ∧
  (∀ s s' : Bytes, s.Perm s' → xor8 s = xor8 s') ∧
  (∀ (a c : Bytes) (b : Byte) (j : Nat), j < 8 → xor8 (a ++ flipBit b j :: c) = flipBit (xor8 (a ++ b :: c)) j) ∧
  (∀ s : Bytes, xor8 (s ++ [xor8 s]) = 0x00#8) ∧
  (∀ a c : Bytes, xor8 (a ++ 0x00#8 :: c) = xor8 (a ++ c)) ∧
  (∀ a b : Bytes, xor8 (a ++ b) = xor8 a ^^^ xor8 b) ∧
  xor8 [0x02#8, 0x03#8, 0x01#8, 0x01#8, 0x02#8] = 0x03#8

/-- R134, R137: ADD8, the properties R134 lists, and its value over a concatenation. -/
def Obligations.Add8IsTheSumOfAllBytesModulo256 : Prop :=
  add8 [] = 0x00#8 ∧
  (∀ (s : Bytes) (b : Byte), (add8 (s ++ [b])).toNat = ((add8 s).toNat + b.toNat) % 256) ∧
  (∀ s s' : Bytes, s.Perm s' → add8 s = add8 s') ∧
  (∀ (a c : Bytes) (b : Byte) (j : Nat), j < 8 → add8 (a ++ flipBit b j :: c) ≠ add8 (a ++ b :: c)) ∧
  (∀ a c : Bytes, add8 (a ++ 0x00#8 :: c) = add8 (a ++ c)) ∧
  (∀ a b : Bytes, (add8 (a ++ b)).toNat = ((add8 a).toNat + (add8 b).toNat) % 256) ∧
  add8 [0x02#8, 0x03#8, 0x01#8, 0x01#8, 0x02#8] = 0x09#8 ∧ add8 [0xFF#8, 0x02#8] = 0x01#8

/-! ### Packet Frame -/

/-- R147: FRAME_ENCODE's tests in their order, and the Frame. -/
def Obligations.FrameEncodeReturnsTheFrameOrItsFirstError : Prop :=
  (∀ c : Command, c.op = 0xA#4 → decode c = .frameEncode c.deviceId c.messageType c.bytes) ∧
  ∀ (d t : Int) (payload : Bytes) (s : State),
    (d < 0 ∨ d > 255 → Returns (.frameEncode d t payload) s (.error .valueOutOfRange)) ∧
    (0 ≤ d → d ≤ 255 → t < 0 ∨ t > 255 → Returns (.frameEncode d t payload) s (.error .valueOutOfRange)) ∧
    (0 ≤ d → d ≤ 255 → 0 ≤ t → t ≤ 255 → payload.length > s.params.maxPayload →
      Returns (.frameEncode d t payload) s (.error .payloadTooLarge)) ∧
    (0 ≤ d → d ≤ 255 → 0 ≤ t → t ≤ 255 → payload.length ≤ s.params.maxPayload →
      ∃ len : Byte, len.toNat = payload.length ∧
        let body := [len, BitVec.ofInt 8 d, BitVec.ofInt 8 t] ++ payload
        let frame := [s.params.sync] ++ body ++ [s.params.ck body]
        frame.length = 5 + payload.length ∧ Returns (.frameEncode d t payload) s (.ok (.bytes frame)))

/-- R150, R151, R242: FRAME_DECODE always completes, and each outcome has exactly the condition the order of the tests
gives it. -/
def Obligations.FrameDecodeOutcomesHaveTheirConditions : Prop :=
  (∀ c : Command, c.op = 0xB#4 → decode c = .frameDecode c.bytes) ∧
  ∀ (f : Bytes) (s : State), ∃ r, Returns (.frameDecode f) s r ∧
    (r = .error .syncMismatch ↔ f ≠ [] ∧ f.head? ≠ some s.params.sync) ∧
    (r = .error .payloadTooLarge ↔ f.head? = some s.params.sync ∧ 2 ≤ f.length ∧
      (byteAt f 1).toNat > s.params.maxPayload) ∧
    (r = .error .incompleteFrame ↔ f = [] ∨ (f.head? = some s.params.sync ∧
      (f.length < 2 ∨ ((byteAt f 1).toNat ≤ s.params.maxPayload ∧ f.length < 5 + (byteAt f 1).toNat)))) ∧
    (r = .error .checksumMismatch ↔ WholeFrame s.params f ∧ ¬ ChecksumHolds s.params f) ∧
    (r = .error .unknownMessageType ↔ WholeFrame s.params f ∧ ChecksumHolds s.params f ∧
      s.params.reg (byteAt f 3) = none) ∧
    (r = .error .payloadShapeMismatch ↔ WholeFrame s.params f ∧ ChecksumHolds s.params f ∧
      ∃ shape, s.params.reg (byteAt f 3) = some shape ∧ shape.accepts (byteAt f 1).toNat = false) ∧
    (∀ p : Packet, r = .ok (.packet p) ↔ WholeFrame s.params f ∧ ChecksumHolds s.params f ∧
      (∃ shape, s.params.reg (byteAt f 3) = some shape ∧ shape.accepts (byteAt f 1).toNat = true) ∧
      p = { deviceId := byteAt f 2, messageType := byteAt f 3,
            payload := (f.drop 4).take (byteAt f 1).toNat })

/-- R152: bytes after the Frame change nothing. -/
def Obligations.BytesAfterTheFrameAreIgnored : Prop :=
  ∀ (s : State) (f rest : Bytes) (r : Response), 2 ≤ f.length → 5 + (byteAt f 1).toNat ≤ f.length →
    Returns (.frameDecode f) s r → Returns (.frameDecode (f ++ rest)) s r

/-- R13, R14: a Packet that FRAME_DECODE returns has a payload within the maximum, a registered type and a length
its Shape accepts. -/
def Obligations.DecodedPacketsAreValid : Prop :=
  ∀ (s : State) (f : Bytes) (p : Packet), Returns (.frameDecode f) s (.ok (.packet p)) → p.Valid s.params

/-- R160: decode undoes encode for every valid Packet, with any bytes appended, under every checksum function (the
first part ranges over all of them, the second says it of the operations); a Packet that is constructible and not
valid encodes and is then rejected. -/
def Obligations.FrameDecodeUndoesFrameEncode : Prop :=
  (∀ (P : Params) (p : Packet) (rest : Bytes), p.payload.length ≤ P.maxPayload →
    ∃ f, frameEncode P p.deviceId.toNat p.messageType.toNat p.payload = .ok f ∧
      (p.Valid P → frameDecode P (f ++ rest) = .ok p) ∧
      (P.reg p.messageType = none → frameDecode P (f ++ rest) = .error .unknownMessageType) ∧
      (∀ shape, P.reg p.messageType = some shape → shape.accepts p.payload.length = false →
        frameDecode P (f ++ rest) = .error .payloadShapeMismatch)) ∧
  (∀ (s : State) (p : Packet) (rest : Bytes), p.payload.length ≤ s.params.maxPayload →
    ∃ f, Returns (.frameEncode p.deviceId.toNat p.messageType.toNat p.payload) s (.ok (.bytes f)) ∧
      (p.Valid s.params → Returns (.frameDecode (f ++ rest)) s (.ok (.packet p))) ∧
      (s.params.reg p.messageType = none → Returns (.frameDecode (f ++ rest)) s (.error .unknownMessageType)) ∧
      (∀ shape, s.params.reg p.messageType = some shape → shape.accepts p.payload.length = false →
        Returns (.frameDecode (f ++ rest)) s (.error .payloadShapeMismatch)))

/-- R161: one flipped bit in an encoded Frame, under XOR8 or ADD8, by the byte it is in. R161's exception (C6) is left
out: a flip that shrinks the length and leaves a matching byte in the checksum's place can go undetected. -/
def Obligations.FlippedBitGivesTheKindOfItsByteSaveAMatchingShrunkLength : Prop :=
  ∀ (s : State) (p : Packet) (f : Bytes) (k j : Nat), (s.params.ck = xor8 ∨ s.params.ck = add8) →
    Returns (.frameEncode p.deviceId.toNat p.messageType.toNat p.payload) s (.ok (.bytes f)) →
    k < f.length → j < 8 →
    let g := f.set k (flipBit (byteAt f k) j)
    let len := (flipBit (byteAt f 1) j).toNat
    (k = 0 → Returns (.frameDecode g) s (.error .syncMismatch)) ∧
    (2 ≤ k → Returns (.frameDecode g) s (.error .checksumMismatch)) ∧
    (k = 1 → len > s.params.maxPayload → Returns (.frameDecode g) s (.error .payloadTooLarge)) ∧
    (k = 1 → len ≤ s.params.maxPayload → p.payload.length < len →
      Returns (.frameDecode g) s (.error .incompleteFrame)) ∧
    (k = 1 → len < p.payload.length → s.params.ck (slice g 1 (4 + len)) ≠ byteAt g (4 + len) →
      Returns (.frameDecode g) s (.error .checksumMismatch))

/-! ### Decoder -/

/-- R173: Seeking: the sync byte starts a candidate; any other byte is noise, with no event. -/
def Obligations.FeedInSeekingStartsACandidateOrDropsNoise : Prop :=
  ∀ (s : State) (x : Byte), s.dec.Quiescent s.params → s.dec.st = .seeking →
    (x = s.params.sync →
      ReturnsWith (.feed x) s { st := .readingHeader, buf := [s.params.sync] } (.ok (.events []))) ∧
    (x ≠ s.params.sync → ReturnsWith (.feed x) s { st := .seeking, buf := [] } (.ok (.events [])))

/-- R174: ReadingHeader: every byte is appended, whatever its value, until the fill count is 4. -/
def Obligations.FeedInReadingHeaderAppends : Prop :=
  ∀ (s : State) (x : Byte), s.dec.Quiescent s.params → s.dec.st = .readingHeader →
    (s.dec.buf.length + 1 < 4 →
      ReturnsWith (.feed x) s { st := .readingHeader, buf := s.dec.buf ++ [x] } (.ok (.events []))) ∧
    (s.dec.buf.length + 1 = 4 →
      ReturnsWith (.feed x) s { st := .readingPayload, buf := s.dec.buf ++ [x] } (.ok (.events [])))

/-- R175, R188: ReadingPayload: a byte that neither fills nor completes the candidate is appended, with no event. -/
def Obligations.FeedInReadingPayloadAppends : Prop :=
  ∀ (s : State) (x : Byte), s.dec.Quiescent s.params → s.dec.st = .readingPayload →
    s.dec.buf.length < s.params.maxFrame → s.dec.buf.length + 1 < 5 + s.dec.candidateLength →
    ReturnsWith (.feed x) s { st := .readingPayload, buf := s.dec.buf ++ [x] } (.ok (.events []))

/-- R179, R180: with the buffer full, the buffer and the byte are discarded and nothing is scanned again, whether or
not the byte would complete the candidate. -/
def Obligations.FeedWithFullBufferDiscardsEverything : Prop :=
  ∀ (s : State) (x : Byte), s.dec.Quiescent s.params → s.dec.st = .readingPayload →
    s.dec.buf.length = s.params.maxFrame →
    ReturnsWith (.feed x) s { st := .seeking, buf := [] } (.ok (.events [.frameRejected .payloadTooLarge]))

/-- R177: a candidate that FRAME_DECODE accepts is emitted and consumed whole. -/
def Obligations.FeedEmitsAnAcceptedCandidate : Prop :=
  ∀ (s : State) (x : Byte) (p : Packet), s.dec.Quiescent s.params → s.dec.st = .readingPayload →
    s.dec.buf.length < s.params.maxFrame → s.dec.buf.length + 1 = 5 + s.dec.candidateLength →
    Returns (.frameDecode (s.dec.buf ++ [x])) s (.ok (.packet p)) →
    ReturnsWith (.feed x) s { st := .seeking, buf := [] } (.ok (.events [.packet p]))

/-- R176, R178, R154: a candidate that FRAME_DECODE rejects is reported with its kind, its sync byte is dropped, and
the rest is scanned again from Seeking in its order. -/
def Obligations.FeedRescansARejectedCandidate : Prop :=
  ∀ (s : State) (x : Byte) (e : ErrorKind), s.dec.Quiescent s.params → s.dec.st = .readingPayload →
    s.dec.buf.length < s.params.maxFrame → s.dec.buf.length + 1 = 5 + s.dec.candidateLength →
    Returns (.frameDecode (s.dec.buf ++ [x])) s (.error e) →
    (e = .checksumMismatch ∨ e = .unknownMessageType ∨ e = .payloadShapeMismatch) ∧
    let r := Decoder.feedChunk s.params { st := .seeking, buf := [] } (s.dec.buf.drop 1 ++ [x])
    ReturnsWith (.feed x) s r.1 (.ok (.events (.frameRejected e :: r.2)))

/-- R172, R30: FEED completes in every quiescent Decoder State, for every byte, and leaves a quiescent one; nothing
but the Decoder State and the responses changes. -/
def Obligations.FeedCompletesAndStaysQuiescent : Prop :=
  (∀ c : Command, c.op = 0xC#4 → decode c = .feed c.byte) ∧
  ∀ (s : State) (x : Byte), s.dec.Quiescent s.params →
    ∃ d evs, ReturnsWith (.feed x) s d (.ok (.events evs)) ∧ d.Quiescent s.params

/-- R182: the loop of FEED ends with nothing left to scan, from every Decoder State and for every byte, and turns
beyond the bound change nothing. -/
def Obligations.FeedLoopTerminates : Prop :=
  ∀ (P : Params) (d : Decoder) (x : Byte) (n : Nat), (Scan.start d x).bound ≤ n →
    (scanLoop P n (Scan.start d x)).q = [] ∧ (scanLoop P n (Scan.start d x)).dec.st ≠ .validating ∧
    scanLoop P n (Scan.start d x) = scanLoop P (Scan.start d x).bound (Scan.start d x)

/-- R183, R101: a chunk issued as one FEED per byte runs to the concatenation of the event lists. -/
def Obligations.FeedChunkIsOneFeedPerByte : Prop :=
  ∀ (chunk : Bytes) (s : State) (rest : List Input), s.Configured → s.dec.Quiescent s.params →
    s.inputs = (pseudoFeedChunk chunk).map (fun i => Input.command (encode i)) ++ rest →
    ∃ rs : List Response, rs.length = chunk.length ∧
      (rs.map eventsOf).flatten = (Decoder.feedChunk s.params s.dec chunk).2 ∧
      Sys2Proof.core.run chunk.length s =
        .next { s with dec := (Decoder.feedChunk s.params s.dec chunk).1
                       inputs := rest
                       responses := s.responses ++ rs }

/-- R184: cutting a stream into chunks changes neither the events nor the Decoder State. -/
def Obligations.ChunkingDoesNotMatter : Prop :=
  ∀ (P : Params) (d : Decoder) (c1 c2 : Bytes),
    Decoder.feedChunk P d (c1 ++ c2) =
      ((Decoder.feedChunk P (Decoder.feedChunk P d c1).1 c2).1,
       (Decoder.feedChunk P d c1).2 ++ (Decoder.feedChunk P (Decoder.feedChunk P d c1).1 c2).2)

/-- R185: from every quiescent Decoder State, under every configuration, the byte-serial FEED returns the events of
the batch formulation and retains its bytes. -/
def Obligations.FeedChunkAgreesWithTheBatchScan : Prop :=
  ∀ (P : Params) (d : Decoder) (chunk : Bytes), d.Quiescent P →
    let r := batchScan P (d.buf ++ chunk).length (d.buf ++ chunk)
    Decoder.feedChunk P d chunk = (Decoder.ofBuf r.2, r.1)

/-- R186: one FEED returns at most one event per byte held or fed. -/
def Obligations.FeedReturnsBoundedlyManyEvents : Prop :=
  ∀ (P : Params) (d : Decoder) (x : Byte), d.Quiescent P →
    (d.feed P x).2.length ≤ d.buf.length + 1 ∧ (d.feed P x).2.length ≤ P.maxFrame + 1

/-- R188, R14: the events are packets, each valid, and rejections with one of four reasons. -/
def Obligations.FeedEventsAreValidPacketsOrFourReasons : Prop :=
  ∀ (P : Params) (d : Decoder) (x : Byte) (ev : Event), d.Quiescent P → ev ∈ (d.feed P x).2 →
    (∃ p, ev = .packet p ∧ p.Valid P) ∨
    ev = .frameRejected .checksumMismatch ∨ ev = .frameRejected .unknownMessageType ∨
    ev = .frameRejected .payloadShapeMismatch ∨ ev = .frameRejected .payloadTooLarge

/-- R31, R179: a candidate whose length byte exceeds MAX_PAYLOAD never becomes a Packet: the bytes that follow are
held until the bounded-growth rule discards it; with MAX_PAYLOAD = 255 that rule never fires. -/
def Obligations.OversizeCandidatesAreOnlyEverDiscarded : Prop :=
  (∀ (P : Params) (d : Decoder) (chunk : Bytes), d.Quiescent P → d.st = .readingPayload →
    d.candidateLength > P.maxPayload →
    (d.buf.length + chunk.length ≤ P.maxFrame →
      Decoder.feedChunk P d chunk = ({ st := .readingPayload, buf := d.buf ++ chunk }, [])) ∧
    (d.buf.length + chunk.length = P.maxFrame + 1 →
      Decoder.feedChunk P d chunk = ({ st := .seeking, buf := [] }, [.frameRejected .payloadTooLarge]))) ∧
  (∀ (P : Params) (d : Decoder) (x : Byte), P.maxPayload = 255 → d.Quiescent P →
    Event.frameRejected .payloadTooLarge ∉ (d.feed P x).2)

/-- R187: no byte is delivered out of its place: the bytes held after a FEED are the last bytes of those held before
it followed by the byte fed, in their order. -/
def Obligations.HeldBytesAreASuffixOfTheStream : Prop :=
  ∀ (P : Params) (d : Decoder) (x : Byte), d.Quiescent P → (d.feed P x).1.buf <:+ d.buf ++ [x]

/-- R190: a corrupted frame with its sync and length bytes intact and no later sync value, then a valid frame: one
rejection, then the packet, and the reset state, under every chunking (`ChunkingDoesNotMatter`). -/
def Obligations.ResynchronizationAfterACorruptedFrame : Prop :=
  ∀ (P : Params) (c f : Bytes) (e : ErrorKind) (p : Packet),
    c.head? = some P.sync → c.length = 5 + (byteAt c 1).toNat → (byteAt c 1).toNat ≤ P.maxPayload →
    P.sync ∉ c.drop 1 → frameDecode P c = .error e → p.Valid P →
    frameEncode P p.deviceId.toNat p.messageType.toNat p.payload = .ok f →
    Decoder.feedChunk P Decoder.reset (c ++ f) = (Decoder.reset, [.frameRejected e, .packet p])

/-- W5, R177: from the reset state every encoded valid packet, fed byte by byte, is delivered once and whole. -/
def Obligations.EncodedPacketsAreDelivered : Prop :=
  ∀ (P : Params) (p : Packet) (f : Bytes), p.Valid P →
    frameEncode P p.deviceId.toNat p.messageType.toNat p.payload = .ok f →
    Decoder.feedChunk P Decoder.reset f = (Decoder.reset, [.packet p])

/-! ### Registry and system -/

/-- R211. -/
def Obligations.RegLookupReturnsTheEntry : Prop :=
  (∀ c : Command, c.op = 0xD#4 → decode c = .regLookup c.byte) ∧
  ∀ (t : Byte) (s : State),
    (∀ shape, (t, shape) ∈ s.reg → Registry.WF s.reg → Returns (.regLookup t) s (.ok (.shape (some shape)))) ∧
    ((∀ shape, (t, shape) ∉ s.reg) → Returns (.regLookup t) s (.ok (.shape none))) ∧
    Returns (.regLookup t) s (.ok (.shape (s.params.reg t)))

/-- R212, R214: the lengths a Shape accepts. -/
def Obligations.ShapesAcceptInclusiveBounds : Prop :=
  (∀ n len, (Shape.fixedLen n).accepts len = true ↔ len = n) ∧
  (∀ min max len, (Shape.variableLen min max).accepts len = true ↔ min ≤ len ∧ len ≤ max) ∧
  (∀ n len, (Shape.fixedLen n).accepts len = (Shape.variableLen n n).accepts len) ∧
  (∀ min max len, max < min → (Shape.variableLen min max).accepts len = false)

/-- R215, R265: RESET, from every state, and hardware reset: the Decoder State is cleared, with no event, and the
configuration stays. -/
def Obligations.ResetsClearTheDecoderSilently : Prop :=
  (∀ c : Command, c.op = 0xE#4 → decode c = .reset) ∧
  (∀ s : State, ReturnsWith .reset s { st := .seeking, buf := [] } (.ok .nothing)) ∧
  (∀ (s : State) (rest : List Input), s.Configured → s.inputs = .hardwareReset :: rest →
    step s = .next { s with dec := { st := .seeking, buf := [] }, inputs := rest })

/-- R42: the reset state of the Decoder State; nothing issued, nothing returned. The configuration in it (the
defaults of R8) is the model's choice, log entries 1, 2, 3. -/
def Obligations.ResetStateIsSeekingAndEmpty : Prop :=
  State.reset.dec = { st := .seeking, buf := [] } ∧ State.reset.inputs = [] ∧ State.reset.responses = [] ∧
  State.reset.params.sync = 0xAA#8 ∧ State.reset.params.maxPayload = 255 ∧ State.reset.params.endian = .le ∧
  State.reset.params.ck = xor8 ∧ ∀ t, State.reset.params.reg t = none

/-- R96: the reserved code is the only one that selects no operation, and it has no step and no result. -/
def Obligations.ReservedCodeIsRefused : Prop :=
  (∀ c : Command, decode c = .reservedF ↔ c.op = 0xF#4) ∧
  ∀ s : State, exec .reservedF s = .refused .reservedOperation

/-! ### The whole machine -/

/-- R21, R245, R285: every operation but FEED and RESET completes in every state with one response and changes
nothing else, whether it succeeds or errs. -/
def Obligations.PureOperationsOnlyReturnAResponse : Prop :=
  ∀ (i : Instr) (s : State), IsPure i = true → ∃ r, Returns i s r

/-- R40, R62: no operation writes the configuration, the registry or the inputs, and each returns exactly one
response. -/
def Obligations.NoOperationWritesTheConfiguration : Prop :=
  ∀ (i : Instr) (s t : State), exec i s = .next t →
    t.cfg = s.cfg ∧ t.ckSource = s.ckSource ∧ t.reg = s.reg ∧ t.inputs = s.inputs ∧
    ∃ r, t.responses = s.responses ++ [r]

/-- R21: an operation's response, and the Decoder State it leaves where it writes one, depend on the columns of its
row that say "yes" and on nothing else. -/
def Obligations.OperationsReadOnlyWhatTheTableSays : Prop :=
  ∀ (i : Instr) (s s' t : State), AgreeOnReads i s s' → exec i s = .next t →
    ∃ t', exec i s' = .next t' ∧
      (∃ r, t.responses = s.responses ++ [r] ∧ t'.responses = s'.responses ++ [r]) ∧
      (if IsPure i then t.dec = s.dec ∧ t'.dec = s'.dec else t'.dec = t.dec)

/-- R63, R67: a pure operation answers the same before and after any operation, and that operation answers and
leaves the Decoder State the same with or without it. -/
def Obligations.PureOperationsCommuteWithEverything : Prop :=
  ∀ (i j : Instr) (s : State) (r q : Response) (d : Decoder), IsPure i = true →
    Returns i s r → ReturnsWith j s d q →
    Returns i { s with dec := d, responses := s.responses ++ [q] } r ∧
    ReturnsWith j { s with responses := s.responses ++ [r] } d q

/-- R66, R90, R240: the oldest command is decoded and performed, and what is issued after it waits; with nothing
issued, nothing changes. -/
def Obligations.StepPerformsTheOldestCommandOrNothing : Prop :=
  (∀ (s : State) (c : Command) (rest : List Input), s.Configured → s.inputs = .command c :: rest →
    step s = exec (decode c) { s with inputs := rest }) ∧
  (∀ s : State, s.Configured → s.inputs = [] → step s = .next s)

/-- R30, R39, R41: every step keeps the invariant of the quiescent block. -/
def Obligations.EveryStepKeepsTheInvariant : Prop :=
  ∀ s t : State, Inv s → step s = .next t → Inv t

/-- R42, R30: the invariant holds after reset, and in every block built with a CFG word that names an algorithm. -/
def Obligations.ResetMeetsTheInvariant : Prop :=
  Inv State.reset ∧ State.reset.dec.Quiescent State.reset.params ∧
  ∀ (sync maxp : Byte) (e : Endian) (sel : BitVec 3) (f : Byte → Option Shape), sel.toNat < 2 →
    Inv (State.ofConfig (cfgWord sync maxp e sel) .cksel (Registry.ofFun f))

/-- R285, R277: no state that meets the invariant, with no reserved code issued, is ever stuck or refused: every step
answers a next state of the same kind. -/
def Obligations.SafeStatesNeverStop : Prop :=
  ∀ s : State, SafeState s → ∃ t, step s = .next t ∧ SafeState t
end

