-- ==== Sys2Proof/Laws/State.lean ====
section
/-! SUPPORT. One lemma per field per update of State, so that no proof unfolds a record update. -/

namespace Sys2Proof.Machine

variable (s : State) (r : Response) (d : Decoder)

@[simp] theorem respond_dec : (s.respond r).dec = s.dec := rfl
@[simp] theorem respond_cfg : (s.respond r).cfg = s.cfg := rfl
@[simp] theorem respond_ckSource : (s.respond r).ckSource = s.ckSource := rfl
@[simp] theorem respond_reg : (s.respond r).reg = s.reg := rfl
@[simp] theorem respond_inputs : (s.respond r).inputs = s.inputs := rfl
@[simp] theorem respond_responses : (s.respond r).responses = s.responses ++ [r] := rfl
@[simp] theorem respond_params : (s.respond r).params = s.params := rfl

@[simp] theorem setDecoder_dec : (s.setDecoder d).dec = d := rfl
@[simp] theorem setDecoder_cfg : (s.setDecoder d).cfg = s.cfg := rfl
@[simp] theorem setDecoder_ckSource : (s.setDecoder d).ckSource = s.ckSource := rfl
@[simp] theorem setDecoder_reg : (s.setDecoder d).reg = s.reg := rfl
@[simp] theorem setDecoder_inputs : (s.setDecoder d).inputs = s.inputs := rfl
@[simp] theorem setDecoder_responses : (s.setDecoder d).responses = s.responses := rfl
@[simp] theorem setDecoder_params : (s.setDecoder d).params = s.params := rfl

@[simp] theorem resetDecoder_dec : s.resetDecoder.dec = Decoder.reset := rfl
@[simp] theorem resetDecoder_cfg : s.resetDecoder.cfg = s.cfg := rfl
@[simp] theorem resetDecoder_ckSource : s.resetDecoder.ckSource = s.ckSource := rfl
@[simp] theorem resetDecoder_reg : s.resetDecoder.reg = s.reg := rfl
@[simp] theorem resetDecoder_inputs : s.resetDecoder.inputs = s.inputs := rfl
@[simp] theorem resetDecoder_responses : s.resetDecoder.responses = s.responses := rfl
@[simp] theorem resetDecoder_params : s.resetDecoder.params = s.params := rfl

@[simp] theorem hardwareReset_eq : s.hardwareReset = s.resetDecoder := rfl

@[simp] theorem params_sync : s.params.sync = cfgSync s.cfg := rfl
@[simp] theorem params_endian : s.params.endian = cfgEndian s.cfg := rfl
@[simp] theorem params_reg (t : Byte) : s.params.reg t = Registry.lookup s.reg t := rfl
@[simp] theorem params_maxPayload : s.params.maxPayload = (cfgMaxp s.cfg).toNat := rfl

@[simp] theorem takeInput_nil (h : s.inputs = []) : s.takeInput = none := by
  simp [State.takeInput, h]

@[simp] theorem takeInput_cons (i : Input) (rest : List Input) (h : s.inputs = i :: rest) :
    s.takeInput = some (i, { s with inputs := rest }) := by
  simp [State.takeInput, h]

end Sys2Proof.Machine
end

