-- ==== Sys2Proof/Laws/Ops.lean ====
section
/-! SUPPORT. What each shared operation can do, said once. -/

namespace Sys2Proof

/-! ### Configuration -/

theorem maxPayload_le_255 (P : Params) : P.maxPayload ≤ 255 := by
  have := P.maxp.isLt
  simp only [Params.maxPayload]
  omega

theorem maxFrame_eq (P : Params) : P.maxFrame = 5 + P.maxPayload := rfl

end Sys2Proof

namespace Sys2Proof.Machine

/-! ### Responses -/

@[simp] theorem answer_ok {α : Type} (s : State) (f : α → Result) (a : α) :
    s.answer f (.ok a) = .next (s.respond (.ok (f a))) := rfl

@[simp] theorem answer_error {α : Type} (s : State) (f : α → Result) (e : ErrorKind) :
    s.answer f (.error e) = .next (s.respond (.error e)) := rfl

/-- The response of a pure operation's result or error. -/
theorem answer_returns_one_response {α : Type} (s : State) (f : α → Result) (x : Except ErrorKind α) :
    ∃ r, s.answer f x = .next (s.respond r) := by
  cases x with
  | ok a => exact ⟨_, rfl⟩
  | error e => exact ⟨_, rfl⟩

theorem answer_next {α : Type} {s t : State} {f : α → Result} {x : Except ErrorKind α}
    (h : s.answer f x = .next t) : ∃ r, t = s.respond r := by
  obtain ⟨r, hr⟩ := answer_returns_one_response s f x
  rw [hr] at h
  cases h
  exact ⟨r, rfl⟩

theorem respond_inj (s : State) (r q : Response) : s.respond r = s.respond q ↔ r = q := by
  constructor
  · intro h
    have h' := congrArg State.responses h
    simpa using h'
  · intro h
    rw [h]

/-! ### Byte sequences -/

@[simp] theorem leBytes_length (k v : Nat) : (leBytes k v).length = k := by
  induction k generalizing v with
  | zero => rfl
  | succ k ih => simp [leBytes, ih]

theorem leNat_leBytes (k v : Nat) (h : v < 256 ^ k) : leNat (leBytes k v) = v := by
  induction k generalizing v with
  | zero => simp_all [leBytes, leNat]
  | succ k ih =>
    have hq : v / 256 < 256 ^ k := by
      rw [Nat.div_lt_iff_lt_mul (by decide)]
      simpa [Nat.pow_succ] using h
    simp only [leBytes, leNat, ih _ hq, BitVec.toNat_ofNat]
    omega

theorem leNat_lt (s : Bytes) : leNat s < 256 ^ s.length := by
  induction s with
  | nil => simp [leNat]
  | cons b bs ih =>
    have hb := b.isLt
    simp only [leNat, List.length_cons, Nat.pow_succ]
    omega

theorem leBytes_leNat (s : Bytes) : leBytes s.length (leNat s) = s := by
  induction s with
  | nil => rfl
  | cons b bs ih =>
    have hb := b.isLt
    have h1 : (b.toNat + 256 * leNat bs) % 256 = b.toNat := by omega
    have h2 : (b.toNat + 256 * leNat bs) / 256 = leNat bs := by omega
    simp [leBytes, leNat, h1, h2, ih]

@[simp] theorem inByteOrder_length (e : Endian) (s : Bytes) : (inByteOrder e s).length = s.length := by
  cases e <;> simp [inByteOrder]

@[simp] theorem inByteOrder_twice (e : Endian) (s : Bytes) : inByteOrder e (inByteOrder e s) = s := by
  cases e <;> simp [inByteOrder]

theorem slice_length (s : Bytes) (i j : Nat) (h : j ≤ s.length) : (slice s i j).length = j - i := by
  simp [slice]
  omega

theorem memRead_append (a b : Bytes) (k : Nat) : memRead (a ++ b) a.length k = memRead b 0 k := by
  simp [memRead, slice]

theorem byteAt_append_left (a b : Bytes) (i : Nat) (h : i < a.length) : byteAt (a ++ b) i = byteAt a i := by
  simp [byteAt, List.getD_eq_getElem?_getD, List.getElem?_append_left h]

theorem slice_append_left (a b : Bytes) (i j : Nat) (h : j ≤ a.length) : slice (a ++ b) i j = slice a i j := by
  by_cases hij : i ≤ a.length
  · simp only [slice, List.drop_append_of_le_length hij]
    apply List.take_append_of_le_length
    simp
    omega
  · have h0 : j - i = 0 := by omega
    simp [slice, h0]

/-! ### Registry -/

theorem lookup_of_mem (r : Registry) (t : Byte) (shape : Shape) (hwf : Registry.WF r)
    (h : (t, shape) ∈ r) : Registry.lookup r t = some shape := by
  induction r with
  | nil => simp at h
  | cons p rest ih =>
    obtain ⟨code, sh⟩ := p
    rw [Registry.WF, List.pairwise_cons] at hwf
    rcases List.mem_cons.mp h with heq | hin
    · cases heq
      simp [Registry.lookup]
    · have hlt : code < t := hwf.1 _ hin
      have hne : code ≠ t := by
        intro hc
        exact absurd hlt (by simp [hc])
      simp [Registry.lookup, hne, ih hwf.2 hin]

theorem lookup_of_not_mem (r : Registry) (t : Byte) (h : ∀ shape, (t, shape) ∉ r) :
    Registry.lookup r t = none := by
  induction r with
  | nil => rfl
  | cons p rest ih =>
    obtain ⟨code, sh⟩ := p
    have hne : code ≠ t := by
      intro hc
      exact h sh (by simp [hc])
    have hrest : ∀ shape, (t, shape) ∉ rest := fun shape hm => h shape (List.mem_cons_of_mem _ hm)
    simp [Registry.lookup, hne, ih hrest]

/-! ### Quiescent Decoder States -/

theorem reset_quiescent (P : Params) : Decoder.reset.Quiescent P := by
  simp [Decoder.Quiescent, Decoder.reset, Params.maxFrame]

end Sys2Proof.Machine
end

