-- ==== Sys2Proof/Laws/Decoder.lean ====
section
/-! SUPPORT. The loop of FEED: its rank falls at every turn, and the events already emitted do not steer it. -/

namespace Sys2Proof.Machine

/-- R182: the pair (`T`, `|q|`) with `T = |buf| + |q|`, and whether a validation is due, as one number. -/
def Scan.rank (c : Scan) : Nat :=
  let t := c.dec.buf.length + c.q.length
  2 * (t * (t + 1) + c.q.length) + (if c.dec.st = .validating then 1 else 0)

theorem rank_le_bound (c : Scan) : c.rank ≤ c.bound := by
  simp only [Scan.rank, Scan.bound]
  split <;> omega

/-- The rank falls when `T` falls, whatever else happens. -/
theorem rank_lt_of_total_lt {c c' : Scan}
    (h : c'.dec.buf.length + c'.q.length < c.dec.buf.length + c.q.length) : c'.rank < c.rank := by
  have key : ∀ t' t q' q b' b : Nat, t' < t → q' ≤ t' → b' ≤ 1 →
      2 * (t' * (t' + 1) + q') + b' < 2 * (t * (t + 1) + q) + b := by
    intro t' t q' q b' b ht hq hb
    obtain ⟨m, rfl⟩ : ∃ m, t = t' + 1 + m := ⟨t - t' - 1, by omega⟩
    nlinarith [Nat.zero_le (m * t'), Nat.zero_le (m * m)]
  apply key _ _ _ _ _ _ h (by omega)
  split <;> omega

/-- The rank falls when a byte leaves the queue and `T` does not grow. -/
theorem rank_lt_of_queue_lt {c c' : Scan} (hv : c.dec.st ≠ .validating)
    (ht : c'.dec.buf.length + c'.q.length ≤ c.dec.buf.length + c.q.length) (hq : c'.q.length < c.q.length) :
    c'.rank < c.rank := by
  rcases Nat.lt_or_ge (c'.dec.buf.length + c'.q.length) (c.dec.buf.length + c.q.length) with h | h
  · exact rank_lt_of_total_lt h
  · have heq : c'.dec.buf.length + c'.q.length = c.dec.buf.length + c.q.length := by omega
    simp only [Scan.rank, heq, hv, if_false]
    split <;> omega

/-- Scanning one byte adds at most that byte to the buffer. -/
theorem scanByte_length_le (P : Params) (d : Decoder) (x : Byte) :
    (scanByte P d x).1.buf.length ≤ d.buf.length + 1 := by
  unfold scanByte
  split
  · split <;> simp
  · simp
  · split <;> simp [Decoder.reset]
  · simp

theorem scanTurn_rank_lt (P : Params) (c : Scan) (h : ¬ c.Done) : (scanTurn P c).rank < c.rank := by
  unfold scanTurn
  split
  · rename_i hv
    unfold validate
    cases hb : c.dec.buf with
    | nil =>
      have hr : ∀ evs, Scan.rank { dec := Decoder.reset, q := c.q, events := evs } < c.rank := by
        intro evs
        simp [Scan.rank, Decoder.reset, hb, hv]
      split
      · exact hr _
      · simpa using hr _
    | cons b bs =>
      split <;>
        · apply rank_lt_of_total_lt
          simp [Decoder.reset, hb]
          try omega
  · rename_i hv
    cases hq : c.q with
    | nil => exact absurd ⟨hq, hv⟩ h
    | cons x q =>
      apply rank_lt_of_queue_lt hv
      · have := scanByte_length_le P c.dec x
        simp [hq]
        omega
      · simp [hq]

/-- With as many turns as the rank, the loop is done. -/
theorem scanLoop_done (P : Params) (n : Nat) (c : Scan) (h : c.rank ≤ n) : (scanLoop P n c).Done := by
  induction n generalizing c with
  | zero =>
    simp only [scanLoop]
    by_contra hd
    have := scanTurn_rank_lt P c hd
    omega
  | succ n ih =>
    simp only [scanLoop]
    split
    · assumption
    · rename_i hd
      exact ih _ (by have := scanTurn_rank_lt P c hd; omega)

theorem scanLoop_of_done (P : Params) (n : Nat) (c : Scan) (h : c.Done) : scanLoop P n c = c := by
  cases n with
  | zero => rfl
  | succ n => simp only [scanLoop, if_pos h]

/-- Turns beyond the rank change nothing. -/
theorem scanLoop_mono (P : Params) (n m : Nat) (c : Scan) (h : c.rank ≤ n) (hm : n ≤ m) :
    scanLoop P m c = scanLoop P n c := by
  induction n generalizing c m with
  | zero =>
    have hd : c.Done := by
      by_contra hd
      have := scanTurn_rank_lt P c hd
      omega
    rw [scanLoop_of_done P m c hd, scanLoop_of_done P 0 c hd]
  | succ n ih =>
    obtain ⟨k, rfl⟩ : ∃ k, m = k + 1 := ⟨m - 1, by omega⟩
    simp only [scanLoop]
    split
    · rfl
    · rename_i hd
      exact ih k _ (by have := scanTurn_rank_lt P c hd; omega) (by omega)

/-- The result of the loop, however many turns are allowed beyond enough. -/
def Scan.finish (P : Params) (c : Scan) : Scan := scanLoop P c.bound c

theorem finish_of_done (P : Params) (c : Scan) (h : c.Done) : c.finish P = c :=
  scanLoop_of_done P _ c h

/-- The loop unrolls one turn. -/
theorem finish_turn (P : Params) (c : Scan) (h : ¬ c.Done) : c.finish P = (scanTurn P c).finish P := by
  have hlt := scanTurn_rank_lt P c h
  have hb := rank_le_bound c
  unfold Scan.finish
  obtain ⟨k, hk⟩ : ∃ k, c.bound = k + 1 := ⟨c.bound - 1, by omega⟩
  rw [hk]
  simp only [scanLoop, if_neg h]
  rw [scanLoop_mono P (scanTurn P c).rank k _ (Nat.le_refl _) (by omega),
    scanLoop_mono P (scanTurn P c).rank _ _ (Nat.le_refl _) (rank_le_bound _)]

/-- FEED in terms of the unrolled loop. -/
theorem feed_eq_finish (P : Params) (d : Decoder) (b : Byte) :
    d.feed P b = (((Scan.start d b).finish P).dec, ((Scan.start d b).finish P).events) := rfl

end Sys2Proof.Machine
end

