-- ==== Sys2Proof/Laws/Exec.lean ====
section
/-! SUPPORT. What one operation and one step can do, said once: every proof over all instructions or all steps
starts here. -/

namespace Sys2Proof.Machine

/-- If an operation completes, it returned one response, and it wrote the Decoder State only if it is FEED in a
quiescent Decoder State or RESET. -/
theorem exec_cases {i : Instr} {s t : State} (h : exec i s = .next t) :
    (∃ r, t = s.respond r ∧ (∀ b, i ≠ .feed b) ∧ i ≠ .reset ∧ i ≠ .reservedF) ∨
    (∃ b, i = .feed b ∧ s.dec.Quiescent s.params ∧
      t = (s.setDecoder (s.dec.feed s.params b).1).respond (.ok (.events (s.dec.feed s.params b).2))) ∨
    (i = .reset ∧ t = s.resetDecoder.respond (.ok .nothing)) := by
  cases i with
  | feed b =>
    simp only [exec, execFeed] at h
    split at h
    · rename_i hq
      cases h
      exact .inr (.inl ⟨b, rfl, hq, rfl⟩)
    · cases h
  | reset =>
    cases h
    exact .inr (.inr ⟨rfl, rfl⟩)
  | reservedF => cases h
  | encU8 v => obtain ⟨r, rfl⟩ := answer_next h; exact .inl ⟨r, rfl, by simp⟩
  | encU16 v => obtain ⟨r, rfl⟩ := answer_next h; exact .inl ⟨r, rfl, by simp⟩
  | encU32 v => obtain ⟨r, rfl⟩ := answer_next h; exact .inl ⟨r, rfl, by simp⟩
  | encBytes d => cases h; exact .inl ⟨_, rfl, by simp⟩
  | decU8 b o => obtain ⟨r, rfl⟩ := answer_next h; exact .inl ⟨r, rfl, by simp⟩
  | decU16 b o => obtain ⟨r, rfl⟩ := answer_next h; exact .inl ⟨r, rfl, by simp⟩
  | decU32 b o => obtain ⟨r, rfl⟩ := answer_next h; exact .inl ⟨r, rfl, by simp⟩
  | decBytes b o n => obtain ⟨r, rfl⟩ := answer_next h; exact .inl ⟨r, rfl, by simp⟩
  | ckCompute b => cases h; exact .inl ⟨_, rfl, by simp⟩
  | ckVerify b c => cases h; exact .inl ⟨_, rfl, by simp⟩
  | frameEncode d t p => obtain ⟨r, rfl⟩ := answer_next h; exact .inl ⟨r, rfl, by simp⟩
  | frameDecode b => obtain ⟨r, rfl⟩ := answer_next h; exact .inl ⟨r, rfl, by simp⟩
  | regLookup t => cases h; exact .inl ⟨_, rfl, by simp⟩

/-- A step idles, performs the oldest command, or resets the Decoder State, and only in a configured block. -/
theorem step_cases {s t : State} (h : step s = .next t) :
    s.Configured ∧
    ((s.inputs = [] ∧ t = s) ∨
     (∃ c rest, s.inputs = .command c :: rest ∧ exec (decode c) { s with inputs := rest } = .next t) ∨
     (∃ rest, s.inputs = .hardwareReset :: rest ∧ t = ({ s with inputs := rest } : State).resetDecoder)) := by
  simp only [step] at h
  split at h
  · rename_i hc
    refine ⟨hc, ?_⟩
    cases hi : s.inputs with
    | nil =>
      simp only [takeInput_nil s hi] at h
      cases h
      exact .inl ⟨rfl, rfl⟩
    | cons i rest =>
      simp only [takeInput_cons s i rest hi] at h
      cases i with
      | command c => exact .inr (.inl ⟨c, rest, rfl, h⟩)
      | hardwareReset =>
        cases h
        exact .inr (.inr ⟨rest, rfl, rfl⟩)
  · cases h

/-- R96: a command decodes to the reserved row exactly when its code is 0xF. -/
theorem decode_op_lt_15 (c : Command) (h : c.op ≠ 0xF#4) : decode c ≠ .reservedF := by
  have hlt := c.op.isLt
  obtain ⟨op, value, deviceId, messageType, bytes, off, n, byte⟩ := c
  revert h
  have key : ∀ op : BitVec 4, op ≠ 0xF#4 →
      decode ⟨op, value, deviceId, messageType, bytes, off, n, byte⟩ ≠ .reservedF := by
    intro op hne
    have hall : ∀ k : Fin 16, op = BitVec.ofFin k →
        decode ⟨op, value, deviceId, messageType, bytes, off, n, byte⟩ ≠ .reservedF := by
      intro k hk
      subst hk
      fin_cases k <;> first | (simp [decode]; done) | exact absurd rfl hne
    exact hall op.toFin rfl
  exact key op

end Sys2Proof.Machine
end

