-- ==== Sys2Proof/Laws/Formats.lean ====
section
/-! SUPPORT. The fields of the bit formats read back what was put into them (spec/10_state.md rules R25, R39,
R41, spec/30_encoding.md rule R92). -/

namespace Sys2Proof.Machine

theorem evtHeader_fields (k : BitVec 1) (r : BitVec 4) (d t l : Byte) :
    (evtHeader k r d t l).extractLsb' 0 1 = k ∧ (evtHeader k r d t l).extractLsb' 1 4 = r ∧
    (evtHeader k r d t l).extractLsb' 5 8 = d ∧ (evtHeader k r d t l).extractLsb' 13 8 = t ∧
    (evtHeader k r d t l).extractLsb' 21 8 = l := by
  refine ⟨?_, ?_, ?_, ?_, ?_⟩ <;>
  · ext i hi
    unfold evtHeader
    simp only [BitVec.getElem_extractLsb', BitVec.getLsbD_or, BitVec.getLsbD_shiftLeft, BitVec.getLsbD_setWidth]
    rcases i with _ | _ | _ | _ | _ | _ | _ | _ | i <;>
      first
      | omega
      | (simp (disch := omega) [BitVec.getLsbD_of_ge, BitVec.getLsbD_eq_getElem])

/-- A header is made of its fields. -/
theorem evtHeader_of_fields (h : BitVec 29) :
    h = evtHeader (h.extractLsb' 0 1) (h.extractLsb' 1 4) (h.extractLsb' 5 8) (h.extractLsb' 13 8)
      (h.extractLsb' 21 8) := by
  ext i hi
  unfold evtHeader
  simp only [← BitVec.getLsbD_eq_getElem, BitVec.getLsbD_extractLsb', BitVec.getLsbD_or, BitVec.getLsbD_shiftLeft,
    BitVec.getLsbD_setWidth]
  iterate 29 (rcases i with _ | i; · simp)
  omega

theorem cfgWord_fields (s m : Byte) (e : Endian) (k : BitVec 3) :
    (cfgWord s m e k).extractLsb' 0 8 = s ∧ (cfgWord s m e k).extractLsb' 8 8 = m ∧
    (cfgWord s m e k).extractLsb' 16 1 = (if e = .be then 1#1 else 0#1) ∧
    (cfgWord s m e k).extractLsb' 17 3 = k ∧ (cfgWord s m e k).extractLsb' 20 12 = 0#12 := by
  refine ⟨?_, ?_, ?_, ?_, ?_⟩ <;>
  · ext i hi
    unfold cfgWord
    simp only [BitVec.getElem_extractLsb', BitVec.getLsbD_or, BitVec.getLsbD_shiftLeft, BitVec.getLsbD_setWidth]
    rcases i with _ | _ | _ | _ | _ | _ | _ | _ | _ | _ | _ | _ | i <;> cases e <;>
      first
      | omega
      | (simp (disch := omega) [BitVec.getLsbD_of_ge, BitVec.getLsbD_eq_getElem])

theorem cfgWord_endian (s m : Byte) (e : Endian) (k : BitVec 3) : cfgEndian (cfgWord s m e k) = e := by
  cases e <;> simp [cfgEndian, cfgWord, BitVec.getLsbD_of_ge]

theorem entryWord_fields (v : Bool) (lo hi : Byte) :
    (entryWord v lo hi).getLsbD 16 = v ∧ (entryWord v lo hi).extractLsb' 0 8 = lo ∧
    (entryWord v lo hi).extractLsb' 8 8 = hi := by
  refine ⟨?_, ?_, ?_⟩
  · cases v <;> simp [entryWord, BitVec.getLsbD_of_ge]
  all_goals
    ext i hi
    unfold entryWord
    simp only [BitVec.getElem_extractLsb', BitVec.getLsbD_or, BitVec.getLsbD_shiftLeft, BitVec.getLsbD_setWidth]
    rcases i with _ | _ | _ | _ | _ | _ | _ | _ | i <;> cases v <;>
      first
      | omega
      | (simp (disch := omega) [BitVec.getLsbD_of_ge, BitVec.getLsbD_eq_getElem])

/-- R25: the encoding of the position loses nothing, either way. -/
@[simp] theorem St.ofCode_code (p : St) : St.ofCode p.code = p := by cases p <;> rfl

@[simp] theorem St.code_ofCode (c : BitVec 2) : (St.ofCode c).code = c := by revert c; decide

end Sys2Proof.Machine
end

