-- ==== Sys2Proof/Laws/PerInstr.lean ====
section
/-! SUPPORT. The per-instruction family OpcodeSelects: an instruction is well formed exactly when the code of its
command is not the reserved 0xF (spec/30_encoding.md rule R96). -/

namespace Sys2Proof.Laws.OpcodeSelects

def Statement (i : Instr) : Prop := i.wellFormed = true ↔ (encode i).op ≠ 0xF#4

theorem encU8 (v : Int) : Statement (.encU8 v) := by simp [Statement, Instr.wellFormed, encode]
theorem encU16 (v : Int) : Statement (.encU16 v) := by simp [Statement, Instr.wellFormed, encode]
theorem encU32 (v : Int) : Statement (.encU32 v) := by simp [Statement, Instr.wellFormed, encode]
theorem encBytes (d : Bytes) : Statement (.encBytes d) := by simp [Statement, Instr.wellFormed, encode]
theorem decU8 (b : Bytes) (o : Nat) : Statement (.decU8 b o) := by simp [Statement, Instr.wellFormed, encode]
theorem decU16 (b : Bytes) (o : Nat) : Statement (.decU16 b o) := by simp [Statement, Instr.wellFormed, encode]
theorem decU32 (b : Bytes) (o : Nat) : Statement (.decU32 b o) := by simp [Statement, Instr.wellFormed, encode]
theorem decBytes (b : Bytes) (o n : Nat) : Statement (.decBytes b o n) := by simp [Statement, Instr.wellFormed, encode]
theorem ckCompute (b : Bytes) : Statement (.ckCompute b) := by simp [Statement, Instr.wellFormed, encode]
theorem ckVerify (b : Bytes) (c : Byte) : Statement (.ckVerify b c) := by simp [Statement, Instr.wellFormed, encode]
theorem frameEncode (d t : Int) (p : Bytes) : Statement (.frameEncode d t p) := by
  simp [Statement, Instr.wellFormed, encode]
theorem frameDecode (b : Bytes) : Statement (.frameDecode b) := by simp [Statement, Instr.wellFormed, encode]
theorem feed (b : Byte) : Statement (.feed b) := by simp [Statement, Instr.wellFormed, encode]
theorem regLookup (t : Byte) : Statement (.regLookup t) := by simp [Statement, Instr.wellFormed, encode]
theorem reset : Statement .reset := by simp [Statement, Instr.wellFormed, encode]
theorem reservedF : Statement .reservedF := by simp [Statement, Instr.wellFormed, encode]

end Sys2Proof.Laws.OpcodeSelects
end

