-- ==== Sys2Proof/Tests/Slice0.lean ====
section
/-! SUPPORT. The model's own tests: decoding and vectors with expected values from spec/95_test_vectors.md, the
WellFormed smoke test, and for every statement with hypotheses a state and operands that meet them. -/

namespace Sys2Proof.Tests

open Sys2Proof Sys2Proof.Machine

/-! ### The test configurations of spec/95_test_vectors.md section 0 -/

/-- REG_T. -/
def regT : Registry :=
  [(0x00#8, .fixedLen 0), (0x01#8, .fixedLen 2), (0x02#8, .variableLen 0 255), (0x10#8, .fixedLen 6)]

/-- T0, with its CFG word as section 0 gives it. -/
def t0 : State := State.ofConfig 0x0000FFAA#32 .cksel regT
/-- T0/ADD8. -/
def t0Add : State := State.ofConfig 0x0002FFAA#32 .cksel regT
/-- T0/BE. -/
def t0Be : State := State.ofConfig 0x0001FFAA#32 .cksel regT
/-- T4. -/
def t4 : State := State.ofConfig 0x000004AA#32 .cksel regT

/-- A block that holds a candidate. -/
def holding (s : State) (st : St) (buf : Bytes) : State := { s with dec := { st := st, buf := buf } }

/-- The response an outcome returned last. -/
def lastResponse (o : Host.Outcome State Fault Refusal) : Option Response :=
  match o with
  | .next t => t.responses.getLast?
  | .fault _ => none
  | .refused _ => none

/-- The Decoder State an outcome leaves. -/
def decoderAfter (o : Host.Outcome State Fault Refusal) : Option Decoder :=
  match o with
  | .next t => some t.dec
  | .fault _ => none
  | .refused _ => none

/-- The eight bytes B of section 2.2. -/
def vecB : Bytes := [0x34#8, 0x12#8, 0x78#8, 0x56#8, 0xEF#8, 0xBE#8, 0xAD#8, 0xDE#8]
/-- The frame of W1 under T0. -/
def frameW1 : Bytes := [0xAA#8, 0x02#8, 0x03#8, 0x01#8, 0x01#8, 0x02#8, 0x03#8]
/-- The packet of W1. -/
def packetW1 : Packet := { deviceId := 0x03#8, messageType := 0x01#8, payload := [0x01#8, 0x02#8] }
/-- The packet of V41. -/
def packetV41 : Packet := { deviceId := 0x09#8, messageType := 0x00#8, payload := [] }

/-! ### WellFormed: the ill-formed instruction is refused -/

theorem test_wellFormed_refuses_reserved : Instr.wellFormed .reservedF = false := by decide
theorem test_wellFormed_accepts_reset : Instr.wellFormed .reset = true := by decide

/-! ### Decoding: `op` codes written out from R95, one per operation -/

theorem test_decode_encU8 : decode { op := 0b0000#4, value := 0xAA } = .encU8 0xAA := by decide
theorem test_decode_encU16 : decode { op := 0b0001#4, value := 0x1234 } = .encU16 0x1234 := by decide
theorem test_decode_encU32 : decode { op := 0b0010#4, value := -1 } = .encU32 (-1) := by decide
theorem test_decode_encBytes : decode { op := 0b0011#4, bytes := [1#8] } = .encBytes [1#8] := by decide
theorem test_decode_decU8 : decode { op := 0b0100#4, bytes := [7#8], off := 3 } = .decU8 [7#8] 3 := by decide
theorem test_decode_decU16 : decode { op := 0b0101#4, bytes := [7#8], off := 3 } = .decU16 [7#8] 3 := by decide
theorem test_decode_decU32 : decode { op := 0b0110#4, bytes := [7#8], off := 3 } = .decU32 [7#8] 3 := by decide
theorem test_decode_decBytes :
    decode { op := 0b0111#4, bytes := [7#8], off := 3, n := 4 } = .decBytes [7#8] 3 4 := by decide
theorem test_decode_ckCompute : decode { op := 0b1000#4, bytes := [7#8] } = .ckCompute [7#8] := by decide
theorem test_decode_ckVerify :
    decode { op := 0b1001#4, bytes := [7#8], byte := 9#8 } = .ckVerify [7#8] 9#8 := by decide
theorem test_decode_frameEncode :
    decode { op := 0b1010#4, deviceId := 3, messageType := 1, bytes := [7#8] } = .frameEncode 3 1 [7#8] := by decide
theorem test_decode_frameDecode : decode { op := 0b1011#4, bytes := [7#8] } = .frameDecode [7#8] := by decide
theorem test_decode_feed : decode { op := 0b1100#4, byte := 0xAA#8 } = .feed 0xAA#8 := by decide
theorem test_decode_regLookup : decode { op := 0b1101#4, byte := 5#8 } = .regLookup 5#8 := by decide
theorem test_decode_reset : decode { op := 0b1110#4 } = .reset := by decide
theorem test_decode_reservedF : decode { op := 0b1111#4 } = .reservedF := by decide

/-! ### Vectors -/

/-- V4, V6. -/
theorem test_encU8_255 : lastResponse (exec (.encU8 255) t0) = some (.ok (.bytes [0xFF#8])) := by decide
theorem test_encU8_negative : lastResponse (exec (.encU8 (-1)) t0) = some (.error .valueOutOfRange) := by decide
/-- V9. -/
theorem test_encU16_le : lastResponse (exec (.encU16 0x1234) t0) = some (.ok (.bytes [0x34#8, 0x12#8])) := by decide
theorem test_encU16_be : lastResponse (exec (.encU16 0x1234) t0Be) = some (.ok (.bytes [0x12#8, 0x34#8])) := by decide
/-- V16, V18. -/
theorem test_encU32_le :
    lastResponse (exec (.encU32 0xDEADBEEF) t0) = some (.ok (.bytes [0xEF#8, 0xBE#8, 0xAD#8, 0xDE#8])) := by decide
theorem test_encU32_too_large :
    lastResponse (exec (.encU32 4294967296) t0) = some (.error .valueOutOfRange) := by decide
/-- V21. -/
theorem test_encBytes_be :
    lastResponse (exec (.encBytes [1#8, 2#8, 3#8]) t0Be) = some (.ok (.bytes [1#8, 2#8, 3#8])) := by decide
/-- V23, V24. -/
theorem test_decU8_last : lastResponse (exec (.decU8 vecB 7) t0) = some (.ok (.value 0xDE 8)) := by decide
theorem test_decU8_end : lastResponse (exec (.decU8 vecB 8) t0) = some (.error .bufferTooShort) := by decide
/-- V27. -/
theorem test_decU16_odd_le : lastResponse (exec (.decU16 vecB 1) t0) = some (.ok (.value 0x7812 3)) := by decide
theorem test_decU16_odd_be : lastResponse (exec (.decU16 vecB 1) t0Be) = some (.ok (.value 0x1278 3)) := by decide
/-- V31, V33. -/
theorem test_decU32_be : lastResponse (exec (.decU32 vecB 2) t0Be) = some (.ok (.value 0x7856EFBE 6)) := by decide
theorem test_decU32_short : lastResponse (exec (.decU32 vecB 5) t0) = some (.error .bufferTooShort) := by decide
/-- V34, V37. -/
theorem test_decBytes :
    lastResponse (exec (.decBytes vecB 2 3) t0) = some (.ok (.data [0x78#8, 0x56#8, 0xEF#8] 5)) := by decide
theorem test_decBytes_zero_past_end :
    lastResponse (exec (.decBytes vecB 9 0) t0) = some (.error .bufferTooShort) := by decide
/-- V40e, V40d. -/
theorem test_ckCompute_xor : lastResponse (exec (.ckCompute [0xFF#8, 0x01#8]) t0) = some (.ok (.checksum 0xFE#8)) := by decide
theorem test_ckCompute_add : lastResponse (exec (.ckCompute [0xFF#8, 0xFF#8]) t0Add) = some (.ok (.checksum 0xFE#8)) := by decide
/-- Section 3. -/
theorem test_ckVerify_true :
    lastResponse (exec (.ckVerify [2#8, 3#8, 1#8, 1#8, 2#8] 0x03#8) t0) = some (.ok (.verdict true)) := by decide
theorem test_ckVerify_add_false :
    lastResponse (exec (.ckVerify [2#8, 3#8, 1#8, 1#8, 2#8] 0x03#8) t0Add) = some (.ok (.verdict false)) := by decide
/-- W1, V50. -/
theorem test_frameEncode : lastResponse (exec (.frameEncode 3 1 [1#8, 2#8]) t0) = some (.ok (.bytes frameW1)) := by decide
theorem test_frameEncode_too_large :
    lastResponse (exec (.frameEncode 1 2 [0#8, 0#8, 0#8, 0#8, 0#8]) t4) = some (.error .payloadTooLarge) := by decide
/-- V59, V59d. -/
theorem test_frameDecode_trailing :
    lastResponse (exec (.frameDecode (frameW1 ++ [0xFF#8, 0xEE#8])) t0) = some (.ok (.packet packetW1)) := by decide
theorem test_frameDecode_unknown :
    lastResponse (exec (.frameDecode [0xAA#8, 2#8, 3#8, 5#8, 1#8, 2#8, 7#8]) t0) =
      some (.error .unknownMessageType) := by decide
/-- V79: one FEED returns two events. -/
theorem test_feed_resynchronizes :
    lastResponse (exec (.feed 0xEE#8) (holding t0 .readingPayload
      [0xAA#8, 5#8, 7#8, 1#8, 0xAA#8, 0#8, 9#8, 0#8, 9#8])) =
      some (.ok (.events [.frameRejected .checksumMismatch, .packet packetV41])) := by decide
/-- V77: the state after byte 7. -/
theorem test_feed_restarts_inside :
    decoderAfter (exec (.feed 3#8) (holding t0 .readingPayload [0xAA#8, 2#8, 3#8, 1#8, 0xAA#8, 9#8])) =
      some { st := .readingHeader, buf := [0xAA#8, 9#8, 3#8] } := by decide
/-- V80b, V80d. -/
theorem test_regLookup : lastResponse (exec (.regLookup 1#8) t0) = some (.ok (.shape (some (.fixedLen 2)))) := by decide
theorem test_regLookup_none : lastResponse (exec (.regLookup 0xFF#8) t0) = some (.ok (.shape none)) := by decide
/-- V80h. -/
theorem test_reset :
    decoderAfter (exec .reset (holding t0 .readingHeader [0xAA#8, 2#8])) = some { st := .seeking, buf := [] } := by decide
/-- R96. -/
theorem test_reserved_refused : decoderAfter (exec .reservedF t0) = none := by decide
/-- Section 0: T0 and T0/ADD8 as CFG words; section 5: the table entries of REG_T. -/
theorem test_cfgWord : cfgWord 0xAA#8 0xFF#8 .le 1#3 = 0x0002FFAA#32 := by decide
theorem test_cfgWord_be : cfgWord 0xAA#8 0xFF#8 .be 0#3 = 0x0001FFAA#32 := by decide
theorem test_shapeEntry_fixed : shapeEntry (some (.fixedLen 6)) = some 0x10606#17 := by decide
theorem test_shapeEntry_variable : shapeEntry (some (.variableLen 0 255)) = some 0x1FF00#17 := by decide
/-- The host's form: the table word 0xC is performed by the first step after reset. -/
theorem test_step_after_reset :
    lastResponse (step (State.reset.withFetchWord 8 0xC)) = some (.ok (.events [])) := by decide

/-! ### Witnesses: states and operands that meet the hypotheses of the statements -/

/-- EventRecordsDecodeBack: the longest payload the field holds. -/
theorem witness_event_length : ({ packetV41 with payload := List.replicate 255 0#8 } : Packet).payload.length ≤ 255 :=
  Nat.le_of_eq List.length_replicate
/-- EventRecordsAreUnambiguous: V56's packet and a rejection. -/
theorem witness_evtDecode_packet : evtDecode (evtHeader 0#1 0#4 9#8 0#8 0#8) [] = some (.packet packetV41) := by decide
theorem witness_evtDecode_rejected :
    evtDecode (evtHeader 1#1 6#4 0#8 0#8 0#8) [] = some (.frameRejected .checksumMismatch) := by decide
/-- CfgWordHoldsTheConfiguration: the first and the last reserved CKSEL, with a command and with a hardware reset
pending. -/
theorem witness_reserved_cksel :
    let t : State := { State.ofConfig 0x0004FFAA#32 .cksel [] with inputs := [Input.command { op := 0xE#4 }] }
    let u : State := { State.ofConfig 0x000EFFAA#32 .cksel [] with inputs := [Input.hardwareReset] }
    (t.ckSource = .cksel ∧ 2 = (t.cfg.extractLsb' 17 3).toNat) ∧
      (u.ckSource = .cksel ∧ 7 = (u.cfg.extractLsb' 17 3).toNat) := by decide
/-- RegistryEntriesKeepWhatAShapeAccepts: an absent entry, both kinds of Shape, the largest bound and the first that
has no entry. Bits 15:0 of the absent entry are the model's choice (log entry 21). -/
theorem witness_entry_unstorable : shapeEntry (some (.variableLen 0 256)) = none ∧ (256 > 255) := by decide
theorem witness_entry_absent : shapeEntry none = some 0x00000#17 := by decide
theorem witness_entry_largest : shapeEntry (some (.fixedLen 255)) = some 0x1FFFF#17 := by decide
theorem witness_entry_variable : shapeEntry (some (.variableLen 3 1)) = some 0x10103#17 := by decide
/-- DecBytesReturnsTheSliceOrBufferTooShort: one byte too many (V38), and zero bytes past the end (V37). -/
theorem witness_decBytes_short : 6 + 3 > vecB.length ∧ 9 + 0 > vecB.length := by decide
/-- IntegerCodecRoundTrips: the largest value of each width, and a block of the other byte order. -/
theorem witness_roundTrip_values : (0 : Int) ≤ 255 ∧ (255 : Int) < 256 ∧ (65535 : Int) < 65536 ∧
    (4294967295 : Int) < 4294967296 := by decide
theorem witness_roundTrip_other_order : t0.params.endian ≠ t0Be.params.endian := by decide
theorem witness_roundTrip_decU16 : Returns (.decU16 [0x34#8, 0x12#8] 0) t0 (.ok (.value 0x1234 2)) := by rfl
theorem witness_roundTrip_decU32 :
    Returns (.decU32 [0x78#8, 0x56#8, 0x34#8, 0x12#8] 0) t0 (.ok (.value 0x12345678 4)) := by rfl
/-- DecodesChainByNextOffset: a success and an error of each width. -/
theorem witness_chain_decU8 : Returns (.decU8 vecB 0) t0 (.ok (.value 0x34 1)) := by rfl
theorem witness_chain_decU16 : Returns (.decU16 vecB 0) t0 (.ok (.value 0x1234 2)) := by rfl
theorem witness_chain_decU32 : Returns (.decU32 vecB 0) t0 (.ok (.value 0x56781234 4)) := by rfl
theorem witness_chain_decBytes : Returns (.decBytes vecB 0 8) t0 (.ok (.data vecB 8)) := by rfl
theorem witness_chain_decU8_error : Returns (.decU8 [] 0) t0 (.error .bufferTooShort) := by rfl
theorem witness_chain_decU16_error : Returns (.decU16 [1#8] 0) t0 (.error .bufferTooShort) := by rfl
theorem witness_chain_decU32_error : Returns (.decU32 [1#8, 2#8, 3#8] 0) t0 (.error .bufferTooShort) := by rfl
theorem witness_chain_decBytes_error : Returns (.decBytes [] 0 1) t0 (.error .bufferTooShort) := by rfl
/-- MixedWidthAccessSeesTheSameBytes. -/
theorem witness_mixed :
    Returns (.encU32 0x12345678) t0 (.ok (.bytes [0x78#8, 0x56#8, 0x34#8, 0x12#8])) := by rfl
/-- CkVerifyReturnsWhetherTheChecksumIsClaimed, ComputedChecksumsVerify. -/
theorem witness_ckVerify_claimed : t0.params.ck [0xFF#8] = 0xFF#8 ∧ t0.params.ck [0xFF#8] ≠ 0x00#8 := by decide
theorem witness_ckCompute : Returns (.ckCompute [0xFF#8]) t0 (.ok (.checksum 0xFF#8)) := by rfl
/-- Xor8IsTheExclusiveOrOfAllBytes, Add8IsTheSumOfAllBytesModulo256: V40g's permutation and the top bit. -/
theorem witness_permutation : ([1#8, 2#8, 3#8] : Bytes).Perm [3#8, 2#8, 1#8] := by decide
theorem witness_top_bit : 7 < 8 ∧ flipBit 0x01#8 7 = 0x81#8 := by decide
/-- FrameEncodeReturnsTheFrameOrItsFirstError: each clause at its boundary (V46, V47, V50, V49). -/
theorem witness_frameEncode_device : (256 : Int) > 255 ∧ (-1 : Int) < 0 := by decide
theorem witness_frameEncode_type : (0 : Int) ≤ 255 ∧ (256 : Int) > 255 := by decide
theorem witness_frameEncode_long : (List.replicate 5 0#8 : Bytes).length > t4.params.maxPayload := by decide
theorem witness_frameEncode_fits : (List.replicate 4 0#8 : Bytes).length ≤ t4.params.maxPayload := by decide
theorem witness_frameEncode_returns : Returns (.frameEncode 3 1 [1#8, 2#8]) t0 (.ok (.bytes frameW1)) := by rfl
/-- FrameDecodeOutcomesHaveTheirConditions: each outcome occurs (V51 to V59j). -/
theorem witness_frameDecode_sync : Returns (.frameDecode [0x55#8]) t0 (.error .syncMismatch) := by rfl
theorem witness_frameDecode_empty : Returns (.frameDecode []) t0 (.error .incompleteFrame) := by rfl
theorem witness_frameDecode_incomplete :
    Returns (.frameDecode [0xAA#8, 0#8, 9#8, 0#8]) t0 (.error .incompleteFrame) := by rfl
theorem witness_frameDecode_too_large : Returns (.frameDecode [0xAA#8, 5#8]) t4 (.error .payloadTooLarge) := by rfl
theorem witness_frameDecode_checksum :
    Returns (.frameDecode [0xAA#8, 0#8, 9#8, 0#8, 8#8]) t0 (.error .checksumMismatch) := by rfl
theorem witness_frameDecode_unknown :
    Returns (.frameDecode [0xAA#8, 2#8, 3#8, 5#8, 1#8, 2#8, 7#8]) t0 (.error .unknownMessageType) := by rfl
theorem witness_frameDecode_shape :
    Returns (.frameDecode [0xAA#8, 0#8, 3#8, 1#8, 2#8]) t0 (.error .payloadShapeMismatch) := by rfl
/-- DecodedPacketsAreValid, BytesAfterTheFrameAreIgnored. -/
theorem witness_frameDecode_packet : Returns (.frameDecode frameW1) t0 (.ok (.packet packetW1)) := by rfl
theorem witness_frame_whole : 2 ≤ frameW1.length ∧ 5 + (byteAt frameW1 1).toNat ≤ frameW1.length := by decide
/-- FrameDecodeUndoesFrameEncode, EncodedPacketsAreDelivered: a valid packet, an unregistered type, a length outside
the Shape. -/
theorem witness_packet_valid : packetW1.Valid t0.params :=
  ⟨by decide, .fixedLen 2, by rfl, by decide⟩
theorem witness_packet_unregistered : t0.params.reg 0x05#8 = none := by decide
theorem witness_packet_shape : t0.params.reg 0x01#8 = some (.fixedLen 2) ∧ (Shape.fixedLen 2).accepts 1 = false := by
  decide
theorem witness_frame_encoded :
    frameEncode t0.params packetW1.deviceId.toNat packetW1.messageType.toNat packetW1.payload = .ok frameW1 := by rfl
/-- CkComputeReturnsTheChecksum: both checksums. FlippedBitGivesTheKindOfItsByteSaveAMatchingShrunkLength: both checksums, the
sync byte, the last byte, and a length byte that grows past the maximum, grows within it, and shrinks (section 4.3). -/
theorem witness_flip_checksums : t0.params.ck = xor8 ∧ t0Add.params.ck = add8 := ⟨rfl, rfl⟩
theorem witness_flip_frame :
    Returns (.frameEncode packetW1.deviceId.toNat packetW1.messageType.toNat packetW1.payload) t0
      (.ok (.bytes frameW1)) := by rfl
theorem witness_flip_last : 6 < frameW1.length := by decide
theorem witness_flip_grows_past : (flipBit 0x04#8 0).toNat > t4.params.maxPayload := by decide
theorem witness_flip_frame_t4 :
    Returns (.frameEncode 1 2 [0#8, 0#8, 0#8, 0#8]) t4
      (.ok (.bytes [0xAA#8, 4#8, 1#8, 2#8, 0#8, 0#8, 0#8, 0#8, 7#8])) := by rfl
theorem witness_flip_grows :
    (flipBit (byteAt frameW1 1) 7).toNat ≤ t0.params.maxPayload ∧
      packetW1.payload.length < (flipBit (byteAt frameW1 1) 7).toNat := by decide
theorem witness_flip_shrinks :
    (flipBit (byteAt frameW1 1) 1).toNat < packetW1.payload.length ∧
      t0.params.ck (slice (frameW1.set 1 (flipBit (byteAt frameW1 1) 1)) 1 4) ≠
        byteAt (frameW1.set 1 (flipBit (byteAt frameW1 1) 1)) 4 := by decide
/-- The exception of R161: a length byte flipped from 2 to 0 before a byte that matches is not detected. -/
theorem test_flip_shrinks_undetected :
    Returns (.frameEncode 3 2 [1#8, 0#8]) t0 (.ok (.bytes [0xAA#8, 2#8, 3#8, 2#8, 1#8, 0#8, 2#8])) ∧
      flipBit 2#8 1 = 0#8 ∧
      Returns (.frameDecode [0xAA#8, 0#8, 3#8, 2#8, 1#8, 0#8, 2#8]) t0
        (.ok (.packet { deviceId := 3#8, messageType := 2#8, payload := [] })) := ⟨rfl, rfl, rfl⟩

/-! The positions of the Decoder. -/

/-- FeedInSeekingStartsACandidateOrDropsNoise: both clauses. -/
theorem witness_seeking : t0.dec.Quiescent t0.params ∧ t0.dec.st = .seeking ∧ 0xAA#8 = t0.params.sync ∧
    0x55#8 ≠ t0.params.sync := by decide
/-- FeedInReadingHeaderAppends: the fill counts 1 and 3. -/
theorem witness_header_first :
    let s := holding t0 .readingHeader [0xAA#8]
    s.dec.Quiescent s.params ∧ s.dec.st = .readingHeader ∧ s.dec.buf.length + 1 < 4 := by decide
theorem witness_header_last :
    let s := holding t0 .readingHeader [0xAA#8, 2#8, 3#8]
    s.dec.Quiescent s.params ∧ s.dec.st = .readingHeader ∧ s.dec.buf.length + 1 = 4 := by decide
/-- FeedInReadingPayloadAppends: the last byte before the checksum byte. -/
theorem witness_payload_appends :
    let s := holding t0 .readingPayload [0xAA#8, 2#8, 3#8, 1#8, 1#8]
    s.dec.Quiescent s.params ∧ s.dec.st = .readingPayload ∧ s.dec.buf.length < s.params.maxFrame ∧
      s.dec.buf.length + 1 < 5 + s.dec.candidateLength := by decide
/-- FeedWithFullBufferDiscardsEverything: P5's full buffer, and the candidate of variant (b), whose byte would
complete it. -/
theorem witness_payload_full :
    let s := holding t4 .readingPayload [0xAA#8, 9#8, 1#8, 2#8, 0#8, 0#8, 0#8, 0#8, 0#8]
    s.dec.Quiescent s.params ∧ s.dec.st = .readingPayload ∧ s.dec.buf.length = s.params.maxFrame := by decide
theorem witness_payload_full_completing :
    let s := holding t4 .readingPayload [0xAA#8, 5#8, 1#8, 2#8, 0#8, 0#8, 0#8, 0#8, 0#8]
    s.dec.Quiescent s.params ∧ s.dec.buf.length = s.params.maxFrame ∧
      s.dec.buf.length + 1 = 5 + s.dec.candidateLength := by decide
/-- FeedEmitsAnAcceptedCandidate, FeedRescansARejectedCandidate: V60's last byte, V71's, and V68's and V69's. -/
theorem witness_payload_completes :
    let s := holding t0 .readingPayload [0xAA#8, 2#8, 3#8, 1#8, 1#8, 2#8]
    s.dec.Quiescent s.params ∧ s.dec.st = .readingPayload ∧ s.dec.buf.length < s.params.maxFrame ∧
      s.dec.buf.length + 1 = 5 + s.dec.candidateLength := by decide
theorem witness_accepted :
    let s := holding t0 .readingPayload [0xAA#8, 2#8, 3#8, 1#8, 1#8, 2#8]
    Returns (.frameDecode (s.dec.buf ++ [3#8])) s (.ok (.packet packetW1)) := by rfl
theorem witness_rejected :
    let s := holding t0 .readingPayload [0xAA#8, 2#8, 3#8, 1#8, 1#8, 2#8]
    Returns (.frameDecode (s.dec.buf ++ [4#8])) s (.error .checksumMismatch) := by rfl
/-- FeedLoopTerminates: the bound itself. -/
theorem witness_bound : (Scan.start Decoder.reset 0xAA#8).bound ≤ (Scan.start Decoder.reset 0xAA#8).bound := by decide
/-- FeedChunkIsOneFeedPerByte: a chunk of two bytes issued, with a command behind it. -/
theorem witness_chunk :
    let s := { t0 with inputs := (pseudoFeedChunk [0xAA#8, 2#8]).map (fun i => Input.command (encode i)) ++
      [Input.command { op := 0xE#4 }] }
    s.Configured ∧ s.dec.Quiescent s.params := by decide
/-- FeedChunkAgreesWithTheBatchScan, FeedReturnsBoundedlyManyEvents, HeldBytesAreASuffixOfTheStream: a quiescent
Decoder State that holds a candidate. -/
theorem witness_quiescent :
    Decoder.Quiescent t0.params { st := .readingPayload, buf := [0xAA#8, 9#8, 3#8, 0xAA#8] } := by decide
/-- FeedEventsAreValidPacketsOrFourReasons: an event is returned. -/
theorem witness_event :
    Event.packet packetW1 ∈
      (Decoder.feed t0.params { st := .readingPayload, buf := [0xAA#8, 2#8, 3#8, 1#8, 1#8, 2#8] } 3#8).2 := by decide
/-- OversizeCandidatesAreOnlyEverDiscarded: P5 with five and with six bytes, and MAX_PAYLOAD = 255. -/
theorem witness_oversize :
    let d : Decoder := { st := .readingPayload, buf := [0xAA#8, 9#8, 1#8, 2#8] }
    d.Quiescent t4.params ∧ d.candidateLength > t4.params.maxPayload ∧
      d.buf.length + 5 = t4.params.maxFrame ∧ d.buf.length + 6 = t4.params.maxFrame + 1 := by decide
theorem witness_maximum : t0.params.maxPayload = 255 ∧ t0.dec.Quiescent t0.params := by decide
/-- ResynchronizationAfterACorruptedFrame: V71's corrupted frame (and `witness_packet_valid`, `witness_frame_encoded`). -/
theorem witness_corrupted :
    let c : Bytes := [0xAA#8, 2#8, 3#8, 1#8, 1#8, 0x12#8, 3#8]
    c.head? = some t0.params.sync ∧ c.length = 5 + (byteAt c 1).toNat ∧
      (byteAt c 1).toNat ≤ t0.params.maxPayload ∧ t0.params.sync ∉ c.drop 1 := by decide
theorem witness_corrupted_rejected :
    frameDecode t0.params [0xAA#8, 2#8, 3#8, 1#8, 1#8, 0x12#8, 3#8] = .error .checksumMismatch := by rfl

/-! Registry, system and the whole machine. -/

/-- RegLookupReturnsTheEntry: a listed code and one that is not listed. -/
theorem witness_lookup_listed : (0x10#8, Shape.fixedLen 6) ∈ t0.reg ∧ Registry.WF t0.reg := by decide
theorem witness_lookup_absent : ∀ shape, (0x05#8, shape) ∉ t0.reg := by
  intro shape h
  simp [t0, State.ofConfig, regT] at h
/-- ShapesAcceptInclusiveBounds: `min > max` (V80g). -/
theorem witness_shape_empty : 1 < 3 := by decide
/-- ResetsClearTheDecoderSilently: a hardware reset waits. -/
theorem witness_hardwareReset :
    let s := { holding t0 .readingHeader [0xAA#8, 2#8] with inputs := [.hardwareReset] }
    s.Configured ∧ s.inputs = .hardwareReset :: [] := by decide
/-- ReservedCodeIsRefused. -/
theorem witness_reserved : decode { op := 0xF#4 } = .reservedF := by decide
/-- PureOperationsOnlyReturnAResponse, PureOperationsCommuteWithEverything: a pure operation, and FEED and RESET. -/
theorem witness_pure : IsPure (.encU16 0x1234) = true ∧ IsPure (.feed 0#8) = false := by decide
theorem witness_commute_feed :
    ReturnsWith (.feed 0xAA#8) t0 { st := .readingHeader, buf := [0xAA#8] } (.ok (.events [])) := by rfl
theorem witness_commute_reset : ReturnsWith .reset t0 { st := .seeking, buf := [] } (.ok .nothing) := by rfl
/-- NoOperationWritesTheConfiguration, OperationsReadOnlyWhatTheTableSays: an operation that completes, and two
blocks that differ in what ENC_U8 does not read and agree on what FRAME_DECODE reads. -/
theorem witness_completes : decoderAfter (exec .reset t0) = some Decoder.reset := by decide
theorem witness_agree_encU8 : AgreeOnReads (.encU8 0) t0 t0Be := trivial
theorem witness_agree_frameDecode : AgreeOnReads (.frameDecode []) t0 t0Be := ⟨rfl, rfl, rfl, rfl⟩
/-- StepPerformsTheOldestCommandOrNothing: a command waits, and none. -/
theorem witness_step :
    let s := { t0 with inputs := [.command { op := 0xC#4, byte := 0xAA#8 }, .hardwareReset] }
    s.Configured ∧ t0.Configured ∧ t0.inputs = [] := by decide
/-- EveryStepKeepsTheInvariant: a state that meets the invariant and holds a candidate steps. -/
theorem witness_invariant : Inv (holding t0 .readingHeader [0xAA#8, 2#8]) := by decide
theorem witness_invariant_steps :
    decoderAfter (step { holding t0 .readingHeader [0xAA#8, 2#8] with
      inputs := [.command { op := 0xC#4, byte := 7#8 }] }) =
      some { st := .readingHeader, buf := [0xAA#8, 2#8, 7#8] } := by decide
/-- ResetMeetsTheInvariant: both named algorithms. -/
theorem witness_named_cksel : (0#3).toNat < 2 ∧ (1#3).toNat < 2 := by decide
/-- SafeStatesNeverStop: a state with a command and a hardware reset issued. -/
theorem witness_safe :
    SafeState { holding t0 .readingHeader [0xAA#8, 2#8] with
      inputs := [.command { op := 0xC#4, byte := 7#8 }, .hardwareReset] } := by decide

end Sys2Proof.Tests
end

-- ==== Registry functions and decoded packets ====
section
/-! PROOFS. The table of a registry function, and what FRAME_DECODE's packets satisfy. -/

namespace Sys2Proof.Machine

/-! ### The table of a registry function -/

/-- R41: entry `i` of the table that `Registry.ofFun` builds, paired with its code. -/
theorem ofFun_entry_eq_some_iff {f : Byte → Option Shape} {i : Nat} {p : Byte × Shape} :
    ((f (BitVec.ofNat 8 i)).map fun shape => (BitVec.ofNat 8 i, shape)) = some p ↔
      p.1 = BitVec.ofNat 8 i ∧ f p.1 = some p.2 := by
  obtain ⟨code, shape⟩ := p
  rw [Option.map_eq_some_iff]
  constructor
  · rintro ⟨sh, hf, heq⟩
    cases heq
    exact ⟨rfl, hf⟩
  · rintro ⟨rfl, hf⟩
    exact ⟨shape, hf, rfl⟩

theorem mem_ofFun {f : Byte → Option Shape} {t : Byte} {shape : Shape} :
    (t, shape) ∈ Registry.ofFun f ↔ f t = some shape := by
  simp only [Registry.ofFun, List.mem_filterMap, ofFun_entry_eq_some_iff, List.mem_range]
  constructor
  · rintro ⟨_, -, -, hf⟩
    exact hf
  · intro hf
    exact ⟨t.toNat, t.isLt, by simp, hf⟩

/-- The indices rise and stay below 256, so the codes taken from them rise too. -/
theorem ofFun_wf (f : Byte → Option Shape) : Registry.WF (Registry.ofFun f) := by
  have hrange : (List.range 256).Pairwise fun i j => i < j ∧ j < 256 :=
    List.pairwise_lt_range.imp_of_mem fun _ hj hij => ⟨hij, List.mem_range.mp hj⟩
  refine List.Pairwise.filterMap _ ?_ hrange
  rintro i j ⟨hij, hj⟩ a ha b hb
  obtain ⟨ha1, -⟩ := ofFun_entry_eq_some_iff.mp ha
  obtain ⟨hb1, -⟩ := ofFun_entry_eq_some_iff.mp hb
  rw [ha1, hb1, BitVec.lt_def, BitVec.toNat_ofNat, BitVec.toNat_ofNat]
  omega

@[simp] theorem lookup_ofFun (f : Byte → Option Shape) (t : Byte) :
    Registry.lookup (Registry.ofFun f) t = f t := by
  cases hf : f t with
  | none =>
    apply lookup_of_not_mem
    intro shape hmem
    rw [mem_ofFun, hf] at hmem
    cases hmem
  | some shape => exact lookup_of_mem _ t shape (ofFun_wf f) (mem_ofFun.mpr hf)

/-! ### The packets FRAME_DECODE returns -/

/-- R245: an operation's response is `.ok (f a)` exactly when its meaning is the result `a`. -/
theorem answer_eq_respond_ok_iff {α : Type} {s : State} {f : α → Result} (hf : Function.Injective f)
    {x : Except ErrorKind α} {a : α} :
    s.answer f x = .next (s.respond (.ok (f a))) ↔ x = .ok a := by
  cases x with
  | ok b => simp [respond_inj, hf.eq_iff]
  | error e => simp [respond_inj]

theorem returns_frameDecode_packet_iff {s : State} {f : Bytes} {p : Packet} :
    Returns (.frameDecode f) s (.ok (.packet p)) ↔ frameDecode s.params f = .ok p :=
  answer_eq_respond_ok_iff fun _ _ h => Result.packet.inj h

theorem head?_eq_some_iff_byteAt {f : Bytes} {x : Byte} : f.head? = some x ↔ f.length ≠ 0 ∧ byteAt f 0 = x := by
  cases f <;> simp [byteAt]

/-- R11: a slice is given by its offset and its length. -/
theorem slice_add (s : Bytes) (i n : Nat) : slice s i (i + n) = (s.drop i).take n := by
  simp [slice]

/-- R84: the bytes the checksum of a whole Frame covers. -/
theorem slice_covered (f : Bytes) (len : Nat) : slice f 1 (4 + len) = (f.drop 1).take (3 + len) := by
  rw [← slice_add, ← Nat.add_assoc]

/-- A test that answers an error is passed by whatever answers a result. -/
theorem ite_error_eq_ok_iff {ε α : Type} {c : Prop} [Decidable c] {e : ε} {x : Except ε α} {a : α} :
    (if c then .error e else x) = .ok a ↔ ¬ c ∧ x = .ok a := by
  by_cases hc : c <;> simp [hc]

/-- R150: a Packet comes from line 11 alone, behind the tests of the whole Frame, its checksum and its Shape. -/
theorem frameDecode_eq_ok_iff {P : Params} {f : Bytes} {p : Packet} :
    frameDecode P f = .ok p ↔ WholeFrame P f ∧ ChecksumHolds P f ∧
      (∃ shape, P.reg (byteAt f 3) = some shape ∧ shape.accepts (byteAt f 1).toNat = true) ∧
      p = { deviceId := byteAt f 2, messageType := byteAt f 3,
            payload := (f.drop 4).take (byteAt f 1).toNat } := by
  simp only [frameDecode, ite_error_eq_ok_iff, slice_covered, slice_add, WholeFrame, ChecksumHolds,
    head?_eq_some_iff_byteAt, not_not, not_lt, gt_iff_lt, and_assoc, and_congr_right_iff]
  intro _ _ _ _ _ _
  cases P.reg (byteAt f 3) with
  | none => simp
  | some shape => by_cases hacc : shape.accepts (byteAt f 1).toNat <;> simp [hacc, @eq_comm _ p]

/-- R81: a whole Frame holds as many payload bytes as its length byte says. -/
theorem payload_length_of_wholeFrame {P : Params} {f : Bytes} (h : WholeFrame P f) :
    ((f.drop 4).take (byteAt f 1).toNat).length = (byteAt f 1).toNat := by
  obtain ⟨-, -, -, hwhole⟩ := h
  rw [List.length_take, List.length_drop]
  omega

theorem frameDecode_packet_valid {P : Params} {f : Bytes} {p : Packet} (h : frameDecode P f = .ok p) :
    p.Valid P := by
  obtain ⟨hwhole, -, hshape, rfl⟩ := frameDecode_eq_ok_iff.mp h
  have hlen := payload_length_of_wholeFrame hwhole
  obtain ⟨-, -, hmax, -⟩ := hwhole
  simp only [Packet.Valid, hlen]
  exact ⟨hmax, hshape⟩

end Sys2Proof.Machine

namespace Sys2Proof

/-- Settles O8: membership in the table is the function's graph, and the rising codes make the lookup read it. -/
theorem everyRegistryFunctionHasATable : Obligations.EveryRegistryFunctionHasATable :=
  fun f => ⟨Machine.ofFun_wf f, Machine.lookup_ofFun f⟩

/-- Settles O28: line 11 is reached only by a whole Frame whose length byte the Shape of its type accepts. -/
theorem decodedPacketsAreValid : Obligations.DecodedPacketsAreValid :=
  fun _ _ _ h => Machine.frameDecode_packet_valid (Machine.returns_frameDecode_packet_iff.mp h)

end Sys2Proof
end

-- ==== Configuration words and registry entries ====
section
/-! PROOFS. What a strapped CFG word and a stored registry entry hold (spec/10_state.md rules R39, R41). -/

namespace Sys2Proof.Machine

/-! ### CFG (R39) -/

/-- U9: CKSEL 2 to 7 selects no algorithm, and nothing in the inputs changes that. -/
theorem step_of_not_configured {s : State} (h : ¬ s.Configured) : step s = .refused .reservedChecksumSelect :=
  if_neg h

theorem not_configured_of_reserved_cksel {s : State} (hsource : s.ckSource = .cksel)
    (hsel : 2 ≤ (cfgCksel s.cfg).toNat) : ¬ s.Configured := by
  rintro (hpinned | hzero | hone)
  · rw [hsource] at hpinned
    cases hpinned
  · rw [hzero] at hsel
    exact absurd hsel (by decide)
  · rw [hone] at hsel
    exact absurd hsel (by decide)

/-! ### Registry entries (R41) -/

theorem extractLsb'_one_eq_one_iff {n : Nat} (w : BitVec n) (i : Nat) :
    w.extractLsb' i 1 = 1#1 ↔ w.getLsbD i = true := by
  constructor
  · intro h
    simpa using congrArg (·.getLsbD 0) h
  · intro h
    ext j hj
    obtain rfl : j = 0 := by omega
    simpa using h

theorem entryShape_eq_ite (w : BitVec 17) : entryShape w =
    if w.extractLsb' 16 1 = 1#1 then some (.variableLen (w.extractLsb' 0 8).toNat (w.extractLsb' 8 8).toNat)
    else none := by
  simp only [entryShape, extractLsb'_one_eq_one_iff]

theorem entryShape_entryWord_invalid (min max : Byte) : entryShape (entryWord false min max) = none := by
  obtain ⟨hvalid, -, -⟩ := entryWord_fields false min max
  rw [entryShape, hvalid]
  rfl

theorem entryShape_entryWord_valid (min max : Byte) :
    entryShape (entryWord true min max) = some (.variableLen min.toNat max.toNat) := by
  obtain ⟨hvalid, hmin, hmax⟩ := entryWord_fields true min max
  simp [entryShape, hvalid, hmin, hmax]

theorem toNat_ofNat_of_le_255 {n : Nat} (h : n ≤ 255) : (BitVec.ofNat 8 n).toNat = n := by
  rw [BitVec.toNat_ofNat]
  omega

theorem shapeEntry_fixedLen (n : Nat) :
    shapeEntry (some (.fixedLen n)) = shapeEntry (some (.variableLen n n)) := by
  simp only [shapeEntry, and_self]

theorem shapeEntry_variableLen_eq_some_iff {min max : Nat} {w : BitVec 17} :
    shapeEntry (some (.variableLen min max)) = some w ↔
      (min ≤ 255 ∧ max ≤ 255) ∧ entryWord true (BitVec.ofNat 8 min) (BitVec.ofNat 8 max) = w := by
  simp only [shapeEntry, Option.ite_none_right_eq_some, Option.some.injEq]

theorem shapeEntry_variableLen_eq_none {min max : Nat} (h : min > 255 ∨ max > 255) :
    shapeEntry (some (.variableLen min max)) = none :=
  if_neg (by omega)

/-- R41: the fields of the entry of a Shape whose bounds fit. -/
theorem shapeEntry_variableLen_fields {min max : Nat} (hmin : min ≤ 255) (hmax : max ≤ 255) :
    ∃ w, shapeEntry (some (.variableLen min max)) = some w ∧ w.extractLsb' 16 1 = 1#1 ∧
      (w.extractLsb' 8 8).toNat = max ∧ (w.extractLsb' 0 8).toNat = min := by
  obtain ⟨hvalid, hlo, hhi⟩ := entryWord_fields true (BitVec.ofNat 8 min) (BitVec.ofNat 8 max)
  refine ⟨_, shapeEntry_variableLen_eq_some_iff.mpr ⟨⟨hmin, hmax⟩, rfl⟩, ?_, ?_, ?_⟩
  · rwa [extractLsb'_one_eq_one_iff]
  · rw [hhi, toNat_ofNat_of_le_255 hmax]
  · rw [hlo, toNat_ofNat_of_le_255 hmin]

theorem entryShape_of_shapeEntry_variableLen {min max : Nat} {w : BitVec 17}
    (h : shapeEntry (some (.variableLen min max)) = some w) : entryShape w = some (.variableLen min max) := by
  obtain ⟨⟨hmin, hmax⟩, rfl⟩ := shapeEntry_variableLen_eq_some_iff.mp h
  rw [entryShape_entryWord_valid, toNat_ofNat_of_le_255 hmin, toNat_ofNat_of_le_255 hmax]

/-- R214: a length between `n` and `n` is the length `n`. -/
theorem accepts_variableLen_same (n len : Nat) :
    (Shape.variableLen n n).accepts len = (Shape.fixedLen n).accepts len := by
  simp only [Shape.accepts, decide_eq_decide]
  omega

/-- R41, R213: what is read from a stored entry accepts what the Shape accepts. -/
theorem stored_shape_accepts_same {shape : Shape} {w : BitVec 17} (h : shapeEntry (some shape) = some w) :
    ∃ stored, entryShape w = some stored ∧ ∀ len, stored.accepts len = shape.accepts len := by
  cases shape with
  | fixedLen n =>
    rw [shapeEntry_fixedLen] at h
    exact ⟨_, entryShape_of_shapeEntry_variableLen h, accepts_variableLen_same n⟩
  | variableLen min max => exact ⟨_, entryShape_of_shapeEntry_variableLen h, fun _ => rfl⟩

end Sys2Proof.Machine

namespace Sys2Proof

open Sys2Proof.Machine

/-- Settles O6: the fields of the strapped word are those of `cfgWord_fields`, and a reserved CKSEL leaves the block
unconfigured, which `step` tests before it looks at the inputs. -/
theorem cfgWordHoldsTheConfiguration : Obligations.CfgWordHoldsTheConfiguration := by
  refine ⟨fun sync maxp e sel reg => ?_, fun t hsource hsel =>
    step_of_not_configured (not_configured_of_reserved_cksel hsource hsel)⟩
  obtain ⟨hsync, hmaxp, hendian, hsel, hreserved⟩ := cfgWord_fields sync maxp e sel
  refine ⟨hsync, hmaxp, hendian, hsel, hreserved, hsync, congrArg BitVec.toNat hmaxp,
    cfgWord_endian sync maxp e sel, ?_, ?_⟩
  · rintro rfl
    exact if_pos hsel
  · rintro rfl
    have hne : cfgCksel (cfgWord sync maxp e 1#3) ≠ 0#3 := by
      rw [cfgCksel, hsel]
      decide
    exact (if_neg hne).trans (if_pos hsel)

/-- Settles O7: an entry is read at the bits it is written at, and Fixed(n) is stored as Variable(n, n). -/
theorem registryEntriesKeepWhatAShapeAccepts : Obligations.RegistryEntriesKeepWhatAShapeAccepts := by
  refine ⟨entryShape_eq_ite, ⟨_, rfl, by decide, entryShape_entryWord_invalid _ _⟩,
    fun _ _ => shapeEntry_variableLen_fields, fun n hn => ?_, fun _ _ => stored_shape_accepts_same,
    shapeEntry_fixedLen, fun _ _ => shapeEntry_variableLen_eq_none, fun n hn => ?_⟩
  · rw [shapeEntry_fixedLen]
    exact shapeEntry_variableLen_fields hn hn
  · rw [shapeEntry_fixedLen]
    exact shapeEntry_variableLen_eq_none (.inl hn)

end Sys2Proof
end

-- ==== FEED keeps quiescence, and oversize candidates ====
section
/-! PROOFS. What the loop of FEED keeps from turn to turn, and what it does with a candidate whose length byte exceeds
the maximum (spec/10_state.md rules R30, R31, spec/43_decoder.md rules R172 to R182). -/

namespace Sys2Proof.Machine

variable {P : Params} {buf : Bytes} {x : Byte}

/-! ### Quiescence, position by position (R30) -/

theorem quiescent_seeking_iff : (⟨.seeking, buf⟩ : Decoder).Quiescent P ↔ buf = [] := by
  constructor
  · rintro ⟨-, hseeking, -⟩
    exact List.eq_nil_of_length_eq_zero (hseeking.mp rfl)
  · rintro rfl
    exact reset_quiescent P

theorem quiescent_readingHeader_iff : (⟨.readingHeader, buf⟩ : Decoder).Quiescent P ↔
    1 ≤ buf.length ∧ buf.length ≤ 3 ∧ byteAt buf 0 = P.sync := by
  have hmax := maxFrame_eq P
  constructor
  · rintro ⟨-, -, hheader, -, hsync, -⟩
    obtain ⟨hlo, hhi⟩ := hheader.mp rfl
    exact ⟨hlo, hhi, hsync hlo⟩
  · rintro ⟨hlo, hhi, hsync⟩
    simp only [Decoder.Quiescent, hsync, reduceCtorEq, ne_eq, false_iff, true_iff, implies_true, true_and,
      not_false_eq_true]
    omega

theorem quiescent_readingPayload_iff : (⟨.readingPayload, buf⟩ : Decoder).Quiescent P ↔
    4 ≤ buf.length ∧ buf.length < 5 + (byteAt buf 1).toNat ∧ byteAt buf 0 = P.sync ∧
      buf.length ≤ P.maxFrame := by
  constructor
  · rintro ⟨-, -, -, hpayload, hsync, hmax⟩
    obtain ⟨hlo, hhi⟩ := hpayload.mp rfl
    exact ⟨hlo, hhi, hsync (by omega), hmax⟩
  · rintro ⟨hlo, hhi, hsync, hmax⟩
    simp only [Decoder.Quiescent, Decoder.candidateLength, hsync, reduceCtorEq, ne_eq, false_iff, true_iff,
      implies_true, true_and, not_false_eq_true]
    omega

theorem not_quiescent_validating : ¬ (⟨.validating, buf⟩ : Decoder).Quiescent P :=
  fun h => h.1 rfl

/-- R181: a scanned byte leaves a quiescent Decoder State or completes the candidate. -/
theorem scanByte_quiescent_or_validating {d : Decoder} (h : d.Quiescent P) (x : Byte) :
    (scanByte P d x).1.Quiescent P ∨ (scanByte P d x).1.st = .validating := by
  obtain ⟨st, buf⟩ := d
  cases st with
  | seeking =>
    by_cases hx : x = P.sync
    · left
      simp only [scanByte, hx, if_true]
      exact quiescent_readingHeader_iff.mpr ⟨by simp, by simp, rfl⟩
    · left
      simpa only [scanByte, if_neg hx] using h
  | readingHeader =>
    obtain ⟨hlo, hhi, hsync⟩ := quiescent_readingHeader_iff.mp h
    have hsync' : byteAt (buf ++ [x]) 0 = P.sync := by rwa [byteAt_append_left _ _ _ hlo]
    have hmax := maxFrame_eq P
    left
    simp only [scanByte]
    split
    · rename_i hfull
      exact quiescent_readingPayload_iff.mpr ⟨by omega, by omega, hsync', by omega⟩
    · rename_i hfull
      simp only [List.length_append, List.length_singleton] at hfull
      exact quiescent_readingHeader_iff.mpr ⟨by simp, by simp; omega, hsync'⟩
  | readingPayload =>
    obtain ⟨hlo, hhi, hsync, hmax⟩ := quiescent_readingPayload_iff.mp h
    have hsync' : byteAt (buf ++ [x]) 0 = P.sync := by rwa [byteAt_append_left _ _ _ (by omega)]
    have hlen : byteAt (buf ++ [x]) 1 = byteAt buf 1 := byteAt_append_left _ _ _ (by omega)
    simp only [scanByte]
    split
    · exact .inl (reset_quiescent P)
    · dsimp only
      split
      · exact .inr rfl
      · rename_i hfull hcomplete
        simp only [List.length_append, List.length_singleton, hlen] at hcomplete
        left
        refine quiescent_readingPayload_iff.mpr ⟨?_, ?_, hsync', ?_⟩ <;>
          simp only [List.length_append, List.length_singleton, hlen] <;> omega
  | validating => exact absurd h not_quiescent_validating

/-! ### The loop of FEED (R172) -/

/-- What every turn keeps, the whole loop keeps. -/
theorem finish_keeps {motive : Scan → Prop}
    (hturn : ∀ c, ¬ c.Done → motive c → motive (scanTurn P c)) {c : Scan} (h : motive c) :
    motive (c.finish P) := by
  have hloop : ∀ n c, motive c → motive (scanLoop P n c) := by
    intro n
    induction n with
    | zero => exact fun _ hc => hc
    | succ n ih =>
      intro c hc
      simp only [scanLoop]
      split
      · exact hc
      · rename_i hdone
        exact ih _ (hturn c hdone hc)
  exact hloop _ c h

theorem finish_done (P : Params) (c : Scan) : (c.finish P).Done :=
  scanLoop_done P _ c (rank_le_bound c)

theorem scanTurn_validating {c : Scan} (h : c.dec.st = .validating) : scanTurn P c = validate P c :=
  if_pos h

theorem scanTurn_cons {c : Scan} {q : Bytes} (hst : c.dec.st ≠ .validating) (hq : c.q = x :: q) :
    scanTurn P c =
      { dec := (scanByte P c.dec x).1, q := q, events := c.events ++ (scanByte P c.dec x).2 } := by
  simp only [scanTurn, if_neg hst, hq]

/-- R181: a turn of a loop that is not done validates the candidate, or scans the next byte of the queue. -/
theorem scanTurn_cases {c : Scan} (h : ¬ c.Done) :
    (c.dec.st = .validating ∧ scanTurn P c = validate P c) ∨
    (c.dec.st ≠ .validating ∧ ∃ x q, c.q = x :: q ∧ scanTurn P c =
      { dec := (scanByte P c.dec x).1, q := q, events := c.events ++ (scanByte P c.dec x).2 }) := by
  by_cases hst : c.dec.st = .validating
  · exact .inl ⟨hst, scanTurn_validating hst⟩
  · obtain ⟨x, q, hq⟩ := List.exists_cons_of_ne_nil fun hq => h ⟨hq, hst⟩
    exact .inr ⟨hst, x, q, hq, scanTurn_cons hst hq⟩

/-- R176, R177: accepted or rejected, the candidate leaves the buffer empty. -/
theorem validate_dec (P : Params) (c : Scan) : (validate P c).dec = Decoder.reset := by
  unfold validate
  split <;> rfl

/-- R30, R172: what holds of the Decoder State at every turn of FEED's loop. -/
def Scan.Sound (P : Params) (c : Scan) : Prop := c.dec.Quiescent P ∨ c.dec.st = .validating

theorem Scan.Sound.quiescent {c : Scan} (h : c.Sound P) (hst : c.dec.st ≠ .validating) : c.dec.Quiescent P :=
  h.resolve_right hst

theorem start_sound {d : Decoder} (h : d.Quiescent P) (x : Byte) : (Scan.start d x).Sound P := .inl h

theorem scanTurn_sound {c : Scan} (hdone : ¬ c.Done) (h : c.Sound P) : (scanTurn P c).Sound P := by
  obtain ⟨-, heq⟩ | ⟨hst, x, q, -, heq⟩ := scanTurn_cases (P := P) hdone
  · left
    rw [heq, validate_dec]
    exact reset_quiescent P
  · rw [heq]
    exact scanByte_quiescent_or_validating (h.quiescent hst) x

theorem feed_quiescent {d : Decoder} (h : d.Quiescent P) (x : Byte) : (d.feed P x).1.Quiescent P := by
  have hsound : ((Scan.start d x).finish P).Sound P :=
    finish_keeps (fun _ => scanTurn_sound) (start_sound h x)
  exact hsound.quiescent (finish_done P _).2

/-- A byte that completes no candidate is all that FEED scans. -/
theorem feed_eq_scanByte {d : Decoder} (hst : d.st ≠ .validating) (hst' : (scanByte P d x).1.st ≠ .validating) :
    d.feed P x = scanByte P d x := by
  have hstart : ¬ (Scan.start d x).Done := fun hdone => List.cons_ne_nil _ _ hdone.1
  rw [feed_eq_finish, finish_turn P _ hstart, scanTurn_cons hst rfl, finish_of_done P _ ⟨rfl, hst'⟩]
  rfl

/-- R175: a byte that neither fills the buffer nor completes the candidate. -/
theorem feed_readingPayload_append (hfull : buf.length ≠ P.maxFrame)
    (hcomplete : buf.length + 1 ≠ 5 + (byteAt (buf ++ [x]) 1).toNat) :
    Decoder.feed P ⟨.readingPayload, buf⟩ x = (⟨.readingPayload, buf ++ [x]⟩, []) := by
  have hscan : scanByte P ⟨.readingPayload, buf⟩ x = (⟨.readingPayload, buf ++ [x]⟩, []) := by
    simp [scanByte, hfull, hcomplete]
  rw [feed_eq_scanByte (by simp) (by simp [hscan]), hscan]

/-- R179: a byte that finds the buffer full. -/
theorem feed_readingPayload_full (hfull : buf.length = P.maxFrame) :
    Decoder.feed P ⟨.readingPayload, buf⟩ x = (Decoder.reset, [.frameRejected .payloadTooLarge]) := by
  have hscan : scanByte P ⟨.readingPayload, buf⟩ x = (Decoder.reset, [.frameRejected .payloadTooLarge]) := by
    simp [scanByte, hfull]
  rw [feed_eq_scanByte (by simp) (by simp [hscan, Decoder.reset]), hscan]

/-! ### Chunks (R183, R184) -/

theorem feedChunk_append (P : Params) (d : Decoder) (c1 c2 : Bytes) :
    Decoder.feedChunk P d (c1 ++ c2) =
      ((Decoder.feedChunk P (Decoder.feedChunk P d c1).1 c2).1,
       (Decoder.feedChunk P d c1).2 ++ (Decoder.feedChunk P (Decoder.feedChunk P d c1).1 c2).2) := by
  induction c1 generalizing d with
  | nil => rfl
  | cons b bs ih => simp only [List.cons_append, Decoder.feedChunk, ih, List.append_assoc]

theorem feedChunk_singleton (P : Params) (d : Decoder) (x : Byte) : Decoder.feedChunk P d [x] = d.feed P x := by
  simp [Decoder.feedChunk]

/-! ### Candidates with a length byte above the maximum (R31) -/

/-- R31: such a candidate would need more than MAX_FRAME bytes, so no byte that fits completes it. -/
theorem feedChunk_oversize_held {chunk : Bytes} (hbuf : 2 ≤ buf.length)
    (hlen : P.maxPayload < (byteAt buf 1).toNat) (hfit : buf.length + chunk.length ≤ P.maxFrame) :
    Decoder.feedChunk P ⟨.readingPayload, buf⟩ chunk = (⟨.readingPayload, buf ++ chunk⟩, []) := by
  induction chunk generalizing buf with
  | nil => simp [Decoder.feedChunk]
  | cons x xs ih =>
    have hmax := maxFrame_eq P
    have hlen' : byteAt (buf ++ [x]) 1 = byteAt buf 1 := byteAt_append_left _ _ _ (by omega)
    rw [List.length_cons] at hfit
    have hfeed : Decoder.feed P ⟨.readingPayload, buf⟩ x = (⟨.readingPayload, buf ++ [x]⟩, []) :=
      feed_readingPayload_append (by omega) (by rw [hlen']; omega)
    have hrest := ih (buf := buf ++ [x]) (by simp; omega) (by rwa [hlen']) (by simp; omega)
    simp [Decoder.feedChunk, hfeed, hrest]

/-- R179: the byte after MAX_FRAME bytes discards them all. -/
theorem feedChunk_oversize_discarded {chunk : Bytes} (hbuf : 2 ≤ buf.length) (hroom : buf.length ≤ P.maxFrame)
    (hlen : P.maxPayload < (byteAt buf 1).toNat) (hover : buf.length + chunk.length = P.maxFrame + 1) :
    Decoder.feedChunk P ⟨.readingPayload, buf⟩ chunk =
      (Decoder.reset, [.frameRejected .payloadTooLarge]) := by
  obtain ⟨init, x, rfl⟩ : ∃ init x, chunk = init ++ [x] :=
    (List.eq_nil_or_concat' chunk).resolve_left (by rintro rfl; simp at hover; omega)
  have hinit : buf.length + init.length = P.maxFrame := by
    simp only [List.length_append, List.length_singleton] at hover
    omega
  have hheld := feedChunk_oversize_held hbuf hlen hinit.le
  have hfull : (buf ++ init).length = P.maxFrame := by rwa [List.length_append]
  rw [feedChunk_append, hheld, feedChunk_singleton, feed_readingPayload_full hfull]
  rfl

/-! ### With MAX_PAYLOAD = 255 nothing is oversize (R31) -/

/-- R150: a length byte within the maximum never gives PayloadTooLarge. -/
theorem frameDecode_ne_payloadTooLarge {f : Bytes} (h : (byteAt f 1).toNat ≤ P.maxPayload) :
    frameDecode P f ≠ .error .payloadTooLarge := by
  simp only [frameDecode, gt_iff_lt, not_lt.mpr h, if_false]
  repeat' split
  all_goals simp

/-- R179: scanning emits an event only where the byte finds the buffer full. -/
theorem mem_scanByte_events {d : Decoder} {ev : Event} (h : ev ∈ (scanByte P d x).2) :
    ev = .frameRejected .payloadTooLarge ∧ d.st = .readingPayload ∧ d.buf.length = P.maxFrame := by
  obtain ⟨st, buf⟩ := d
  cases st with
  | seeking =>
    simp only [scanByte] at h
    split at h <;> cases h
  | readingHeader => cases h
  | readingPayload =>
    by_cases hfull : buf.length = P.maxFrame
    · simp only [scanByte, if_pos hfull, List.mem_singleton] at h
      exact ⟨h, rfl, hfull⟩
    · simp only [scanByte, if_neg hfull] at h
      cases h
  | validating => cases h

/-- R177, R178: validation emits a rejection only with the kind FRAME_DECODE answers. -/
theorem mem_validate_events {c : Scan} {e : ErrorKind} (h : Event.frameRejected e ∈ (validate P c).events) :
    Event.frameRejected e ∈ c.events ∨ frameDecode P c.dec.buf = .error e := by
  unfold validate at h
  split at h
  · left
    simpa using h
  · rename_i kind hkind
    rcases List.mem_append.mp h with hold | hnew
    · exact .inl hold
    · cases List.mem_singleton.mp hnew
      exact .inr hkind

/-- Q4, Q6: a candidate in progress holds at most 4 + 255 bytes, one less than MAX_FRAME. -/
theorem buffer_not_full_of_maxPayload_255 {d : Decoder} (h255 : P.maxPayload = 255) (h : d.Quiescent P)
    (hst : d.st = .readingPayload) : d.buf.length ≠ P.maxFrame := by
  obtain ⟨st, buf⟩ := d
  cases hst
  obtain ⟨-, hlen, -, -⟩ := quiescent_readingPayload_iff.mp h
  have hbyte := (byteAt buf 1).isLt
  have hmax := maxFrame_eq P
  dsimp only
  omega

theorem scanTurn_keeps_no_payloadTooLarge {c : Scan} (h255 : P.maxPayload = 255) (hdone : ¬ c.Done)
    (hsound : c.Sound P) (hold : Event.frameRejected .payloadTooLarge ∉ c.events) :
    Event.frameRejected .payloadTooLarge ∉ (scanTurn P c).events := by
  intro hmem
  obtain ⟨-, heq⟩ | ⟨hst, x, q, -, heq⟩ := scanTurn_cases (P := P) hdone
  · have hbyte := (byteAt c.dec.buf 1).isLt
    rw [heq] at hmem
    exact (mem_validate_events hmem).elim hold (frameDecode_ne_payloadTooLarge (by omega))
  · rw [heq] at hmem
    obtain hmem | hmem := List.mem_append.mp hmem
    · exact hold hmem
    · obtain ⟨-, hpayload, hfull⟩ := mem_scanByte_events hmem
      exact buffer_not_full_of_maxPayload_255 h255 (hsound.quiescent hst) hpayload hfull

theorem feed_never_payloadTooLarge {d : Decoder} (h255 : P.maxPayload = 255) (h : d.Quiescent P) (x : Byte) :
    Event.frameRejected .payloadTooLarge ∉ (d.feed P x).2 := by
  have hkeeps : ((Scan.start d x).finish P).Sound P ∧
      Event.frameRejected .payloadTooLarge ∉ ((Scan.start d x).finish P).events :=
    finish_keeps (motive := fun c => c.Sound P ∧ Event.frameRejected .payloadTooLarge ∉ c.events)
      (fun _ hdone ⟨hsound, hold⟩ =>
        ⟨scanTurn_sound hdone hsound, scanTurn_keeps_no_payloadTooLarge h255 hdone hsound hold⟩)
      ⟨start_sound h x, List.not_mem_nil⟩
  exact hkeeps.2

end Sys2Proof.Machine

namespace Sys2Proof

open Sys2Proof.Machine

/-- Settles O44: an oversize candidate needs more bytes than MAX_FRAME, so it fills the buffer before it completes;
with MAX_PAYLOAD = 255 no length byte is oversize and the buffer never fills. -/
theorem oversizeCandidatesAreOnlyEverDiscarded : Obligations.OversizeCandidatesAreOnlyEverDiscarded := by
  refine ⟨?_, fun P d x h255 hq => feed_never_payloadTooLarge h255 hq x⟩
  rintro P ⟨st, buf⟩ chunk hq hst hlen
  cases hst
  obtain ⟨hfour, -, -, hroom⟩ := quiescent_readingPayload_iff.mp hq
  have htwo : 2 ≤ buf.length := by omega
  exact ⟨feedChunk_oversize_held htwo hlen, feedChunk_oversize_discarded htwo hroom hlen⟩

end Sys2Proof
end

-- ==== The frame of every operation and the invariant ====
section
/-! PROOFS. What an operation reads and writes, and what every step keeps (spec/10_state.md rules R21, R30, R40,
R42). -/

namespace Sys2Proof.Machine

/-! ### Parameters an operation does not read (R21) -/

/-- R111: one byte is the same in both byte orders. -/
theorem inByteOrder_of_length_le_one {bs : Bytes} (h : bs.length ≤ 1) (e : Endian) : inByteOrder e bs = bs := by
  cases e with
  | le => rfl
  | be =>
    match bs, h with
    | [], _ => rfl
    | [_], _ => rfl

theorem encodeUInt_one_endian (e e' : Endian) (value : Int) : encodeUInt e 1 value = encodeUInt e' 1 value := by
  simp only [encodeUInt, inByteOrder_of_length_le_one (leBytes_length 1 _).le]

theorem memRead_length_le (bytes : Bytes) (off n : Nat) : (memRead bytes off n).length ≤ n := by
  simp [memRead, slice]

theorem decodeUInt_one_endian (e e' : Endian) (bytes : Bytes) (off : Nat) :
    decodeUInt e 1 bytes off = decodeUInt e' 1 bytes off := by
  simp only [decodeUInt, inByteOrder_of_length_le_one (memRead_length_le bytes off 1)]

/-- R21: FRAME_ENCODE reads SYNC, MAX_PAYLOAD and CK. -/
theorem frameEncode_congr {P P' : Params} (hsync : P.sync = P'.sync) (hmaxp : P.maxp = P'.maxp)
    (hck : P.ck = P'.ck) (deviceId messageType : Int) (payload : Bytes) :
    frameEncode P deviceId messageType payload = frameEncode P' deviceId messageType payload := by
  cases P
  cases P'
  cases hsync
  cases hmaxp
  cases hck
  rfl

/-- R21: all that the Decoder and FRAME_DECODE read is every parameter but ENDIAN. -/
theorem params_eq_of_same_but_endian {P P' : Params} (hsync : P.sync = P'.sync) (hmaxp : P.maxp = P'.maxp)
    (hck : P.ck = P'.ck) (hreg : P.reg = P'.reg) : { P with endian := P'.endian } = P' := by
  cases P
  cases P'
  simp_all

section
variable (P : Params) (e : Endian)

theorem frameDecode_endian (f : Bytes) : frameDecode { P with endian := e } f = frameDecode P f := rfl

theorem scanTurn_endian (c : Scan) : scanTurn { P with endian := e } c = scanTurn P c := rfl

theorem scanLoop_endian (n : Nat) (c : Scan) : scanLoop { P with endian := e } n c = scanLoop P n c := by
  induction n generalizing c with
  | zero => rfl
  | succ n ih => simp only [scanLoop, scanTurn_endian, ih]

theorem feed_endian (d : Decoder) (b : Byte) : d.feed { P with endian := e } b = d.feed P b := by
  simp only [Decoder.feed, scanLoop_endian]

theorem quiescent_endian (d : Decoder) : d.Quiescent { P with endian := e } ↔ d.Quiescent P := Iff.rfl

end

/-! ### Pure operations (R21, R245) -/

theorem returns_iff {i : Instr} {s : State} {r : Response} : Returns i s r ↔ exec i s = .next (s.respond r) :=
  Iff.rfl

/-- The response depends on the meaning alone. -/
theorem answer_same {α : Type} (s s' : State) (f : α → Result) {x x' : Except ErrorKind α} (h : x = x') :
    ∃ r, s.answer f x = .next (s.respond r) ∧ s'.answer f x' = .next (s'.respond r) := by
  subst h
  cases x with
  | ok a => exact ⟨_, rfl, rfl⟩
  | error e => exact ⟨_, rfl, rfl⟩

/-- R21: a pure operation completes alike in any two states that agree on what its row says it reads. -/
theorem pure_returns_same {i : Instr} {s s' : State} (hpure : IsPure i = true) (hagree : AgreeOnReads i s s') :
    ∃ r, Returns i s r ∧ Returns i s' r := by
  cases i with
  | encU8 v => exact answer_same s s' _ (encodeUInt_one_endian _ _ v)
  | encU16 v => exact answer_same s s' _ (congrArg (encodeUInt · 2 v) hagree)
  | encU32 v => exact answer_same s s' _ (congrArg (encodeUInt · 4 v) hagree)
  | encBytes data => exact answer_same s s' _ (x := .ok data) rfl
  | decU8 bs off => exact answer_same s s' _ (decodeUInt_one_endian _ _ bs off)
  | decU16 bs off => exact answer_same s s' _ (congrArg (decodeUInt · 2 bs off) hagree)
  | decU32 bs off => exact answer_same s s' _ (congrArg (decodeUInt · 4 bs off) hagree)
  | decBytes bs off n => exact answer_same s s' _ rfl
  | ckCompute bs => exact answer_same s s' _ (congrArg (fun ck => .ok (ck bs)) hagree)
  | ckVerify bs claimed => exact answer_same s s' _ (congrArg (fun ck => .ok (decide (ck bs = claimed))) hagree)
  | frameEncode d t payload =>
    obtain ⟨hsync, hmaxp, hck⟩ := hagree
    exact answer_same s s' _ (frameEncode_congr hsync hmaxp hck d t payload)
  | frameDecode f =>
    obtain ⟨hsync, hmaxp, hck, hreg⟩ := hagree
    have hparams := params_eq_of_same_but_endian hsync hmaxp hck hreg
    exact answer_same s s' _ ((frameDecode_endian s.params _ f).symm.trans (congrArg (frameDecode · f) hparams))
  | regLookup t => exact answer_same s s' _ (congrArg (fun reg => .ok (reg t)) hagree)
  | feed b => cases hpure
  | reset => cases hpure
  | reservedF => cases hpure

theorem agreeOnReads_refl (i : Instr) (s : State) : AgreeOnReads i s s := by
  cases i <;> simp [AgreeOnReads]

/-! ### FEED and RESET (R21) -/

theorem exec_feed_of_quiescent {s : State} (h : s.dec.Quiescent s.params) (b : Byte) :
    exec (.feed b) s =
      .next ((s.setDecoder (s.dec.feed s.params b).1).respond (.ok (.events (s.dec.feed s.params b).2))) :=
  if_pos h

theorem isPure_of_ne {i : Instr} (hfeed : ∀ b, i ≠ .feed b) (hreset : i ≠ .reset) (hreserved : i ≠ .reservedF) :
    IsPure i = true := by
  cases i with
  | feed b => exact absurd rfl (hfeed b)
  | reset => exact absurd rfl hreset
  | reservedF => exact absurd rfl hreserved
  | _ => rfl

/-- R21: FEED completes alike in two states with one Decoder State that agree on SYNC, MAX_PAYLOAD, CK and REG. -/
theorem exec_feed_same {s s' : State} {b : Byte} (hq : s.dec.Quiescent s.params)
    (hagree : AgreeOnReads (.feed b) s s') :
    exec (.feed b) s' = .next
      ((s'.setDecoder (s.dec.feed s.params b).1).respond (.ok (.events (s.dec.feed s.params b).2))) := by
  obtain ⟨hdec, hsync, hmaxp, hck, hreg⟩ := hagree
  have hparams := params_eq_of_same_but_endian hsync hmaxp hck hreg
  have hq' : s'.dec.Quiescent s'.params := by
    rwa [← hdec, ← hparams, quiescent_endian]
  rw [exec_feed_of_quiescent hq', ← hdec, ← hparams, feed_endian]

/-! ### The frame of every operation (R40, R62) -/

/-- R40: the fields no operation writes. -/
theorem exec_frame {i : Instr} {s t : State} (h : exec i s = .next t) :
    t.cfg = s.cfg ∧ t.ckSource = s.ckSource ∧ t.reg = s.reg ∧ t.inputs = s.inputs ∧
      ∃ r, t.responses = s.responses ++ [r] := by
  obtain ⟨r, rfl, -⟩ | ⟨b, -, -, rfl⟩ | ⟨-, rfl⟩ := exec_cases h <;>
    exact ⟨rfl, rfl, rfl, rfl, _, rfl⟩

/-- R30: the Decoder State an operation leaves is quiescent where it was quiescent before. -/
theorem exec_quiescent {i : Instr} {s t : State} (h : exec i s = .next t) (hq : s.dec.Quiescent s.params) :
    t.dec.Quiescent s.params := by
  obtain ⟨r, rfl, -⟩ | ⟨b, -, -, rfl⟩ | ⟨-, rfl⟩ := exec_cases h
  · exact hq
  · exact feed_quiescent hq b
  · exact reset_quiescent _

end Sys2Proof.Machine

namespace Sys2Proof

open Sys2Proof.Machine

/-! ### The invariant (R30, R39, R41) -/

/-- The invariant speaks of the configuration and the Decoder State only. -/
theorem inv_of_same_config {s t : State} (h : Inv s) (hcfg : t.cfg = s.cfg) (hsource : t.ckSource = s.ckSource)
    (hreg : t.reg = s.reg) (hdec : t.dec.Quiescent s.params) : Inv t := by
  obtain ⟨hconf, hreserved, hwf, -⟩ := h
  simp only [Inv, State.Configured, State.params, hcfg, hsource, hreg] at hconf hreserved hwf hdec ⊢
  exact ⟨hconf, hreserved, hwf, hdec⟩

theorem quiescent_of_inv {s : State} (h : Inv s) : s.dec.Quiescent s.params := by
  obtain ⟨-, -, -, hq⟩ := h
  exact hq

theorem exec_keeps_inv {i : Instr} {s t : State} (hinv : Inv s) (h : exec i s = .next t) : Inv t := by
  obtain ⟨hcfg, hsource, hreg, -, -⟩ := exec_frame h
  exact inv_of_same_config hinv hcfg hsource hreg (exec_quiescent h (quiescent_of_inv hinv))

/-- R267: a new block meets the invariant when its configuration does. -/
theorem inv_ofConfig {cfg : BitVec 32} {source : CkSource} {reg : Registry}
    (hconf : (State.ofConfig cfg source reg).Configured) (hreserved : cfgReserved cfg = 0#12)
    (hwf : Registry.WF reg) : Inv (State.ofConfig cfg source reg) :=
  ⟨hconf, hreserved, hwf, reset_quiescent _⟩

theorem inv_reset : Inv State.reset :=
  inv_ofConfig (.inr (.inl (by decide))) (by decide) List.Pairwise.nil

/-- Settles O58: a step idles, resets the Decoder State or performs an operation, and an operation writes no
configuration and leaves the Decoder State quiescent, FEED by the invariant of its loop. -/
theorem everyStepKeepsTheInvariant : Obligations.EveryStepKeepsTheInvariant := by
  intro s t hinv hstep
  obtain ⟨-, ⟨-, rfl⟩ | ⟨c, rest, -, hexec⟩ | ⟨rest, -, rfl⟩⟩ := step_cases hstep
  · exact hinv
  · exact exec_keeps_inv (s := { s with inputs := rest }) hinv hexec
  · exact inv_of_same_config hinv rfl rfl rfl (reset_quiescent _)

/-- Settles O53: a pure operation agrees with itself on what it reads, and so completes. -/
theorem pureOperationsOnlyReturnAResponse : Obligations.PureOperationsOnlyReturnAResponse := by
  intro i s hpure
  obtain ⟨r, hr, -⟩ := pure_returns_same hpure (agreeOnReads_refl i s)
  exact ⟨r, hr⟩

/-- Settles O54: each outcome of `exec_cases` updates the Decoder State and the responses alone. -/
theorem noOperationWritesTheConfiguration : Obligations.NoOperationWritesTheConfiguration :=
  fun _ _ _ => exec_frame

/-- Settles O55: pure operations by `pure_returns_same`, FEED because its loop never reads ENDIAN, RESET because it
reads nothing. -/
theorem operationsReadOnlyWhatTheTableSays : Obligations.OperationsReadOnlyWhatTheTableSays := by
  intro i s s' t hagree h
  obtain ⟨_, -, hfeed, hreset, hreserved⟩ | ⟨b, rfl, hq, rfl⟩ | ⟨rfl, rfl⟩ := exec_cases h
  · have hpure := isPure_of_ne hfeed hreset hreserved
    obtain ⟨r, hr, hr'⟩ := pure_returns_same hpure hagree
    rw [returns_iff.mp hr] at h
    cases h
    exact ⟨_, hr', ⟨r, rfl, rfl⟩, by simp [hpure]⟩
  · exact ⟨_, exec_feed_same hq hagree, ⟨_, rfl, rfl⟩, rfl⟩
  · exact ⟨_, rfl, ⟨_, rfl, rfl⟩, rfl⟩

/-- Settles O51: every field of the reset state, and what its CFG word and its table are read as. -/
theorem resetStateIsSeekingAndEmpty : Obligations.ResetStateIsSeekingAndEmpty :=
  ⟨rfl, rfl, rfl, rfl, rfl, rfl, rfl, fun _ => rfl⟩

/-- Settles O59: a CKSEL below 2 is 0 or 1, and the table of a function has the one form. -/
theorem resetMeetsTheInvariant : Obligations.ResetMeetsTheInvariant := by
  refine ⟨inv_reset, reset_quiescent _, fun sync maxp e sel f hsel => ?_⟩
  obtain ⟨-, -, -, hcksel, hreserved⟩ := cfgWord_fields sync maxp e sel
  have hnamed : sel = 0#3 ∨ sel = 1#3 := by
    simp only [BitVec.toNat_eq, BitVec.toNat_ofNat]
    omega
  exact inv_ofConfig (.inr (hnamed.imp hcksel.trans hcksel.trans)) hreserved (ofFun_wf f)

end Sys2Proof
end

-- ==== Mixed widths, independence and issue order ====
section
/-! PROOFS. What the integer operations read and write byte by byte, why pure operations commute with every
operation, and what one step performs (spec/20_memory.md rules R55 to R67). -/

namespace Sys2Proof.Machine

/-! ### Integers as bytes (R55, R111) -/

/-- R55: the number of a sequence is its first part plus its second part, moved up by the width of the first. -/
theorem leNat_append (a b : Bytes) : leNat (a ++ b) = leNat a + 256 ^ a.length * leNat b := by
  induction a with
  | nil => simp [leNat]
  | cons x xs ih =>
    simp only [List.cons_append, leNat, ih, List.length_cons, Nat.pow_succ]
    ring

/-- R58: a half of two bytes is worth its number, and what follows it 2^16 times its own. -/
theorem leNat_append_of_length_two {a : Bytes} (h : a.length = 2) (b : Bytes) :
    leNat (a ++ b) = leNat a + 65536 * leNat b := by
  simp [leNat_append, h]

/-- R111: the encoding of an unsigned integer is the one sequence of `k` bytes that stands for it. -/
theorem encodeUInt_eq_ok_iff {e : Endian} {k : Nat} {v : Int} {bs : Bytes} :
    encodeUInt e k v = .ok bs ↔ bs.length = k ∧ v = leNat (inByteOrder e bs) := by
  rw [encodeUInt, ite_error_eq_ok_iff, Except.ok.injEq]
  constructor
  · rintro ⟨hrange, rfl⟩
    refine ⟨by simp, ?_⟩
    rw [inByteOrder_twice, leNat_leBytes _ _ (by omega)]
    omega
  · rintro ⟨rfl, rfl⟩
    have hlt := leNat_lt (inByteOrder e bs)
    have hbytes := leBytes_leNat (inByteOrder e bs)
    rw [inByteOrder_length] at hlt hbytes
    exact ⟨by omega, by rw [Int.toNat_natCast, hbytes, inByteOrder_twice]⟩

/-- R116 to R118: an integer that ends within the operand is read from its `k` bytes. -/
theorem decodeUInt_of_fits {k : Nat} {bytes : Bytes} {off : Nat} (h : off + k ≤ bytes.length) (e : Endian) :
    decodeUInt e k bytes off = .ok (leNat (inByteOrder e (memRead bytes off k)), off + k) :=
  if_neg h.not_gt

theorem memRead_one {bytes : Bytes} {off : Nat} (h : off < bytes.length) :
    memRead bytes off 1 = [byteAt bytes off] := by
  rw [memRead, slice_add, List.drop_eq_getElem_cons h, byteAt, List.getD_eq_getElem _ _ h]
  rfl

theorem answer_of_eq_ok {α : Type} (s : State) (f : α → Result) {x : Except ErrorKind α} {a : α} (h : x = .ok a) :
    s.answer f x = .next (s.respond (.ok (f a))) := by
  rw [h, answer_ok]

theorem returns_encU32_bytes_iff {v : Int} {s : State} {bs : Bytes} :
    Returns (.encU32 v) s (.ok (.bytes bs)) ↔ encodeUInt s.params.endian 4 v = .ok bs :=
  answer_eq_respond_ok_iff fun _ _ h => Result.bytes.inj h

theorem returns_decU8_of_fits {bytes : Bytes} {off : Nat} (h : off < bytes.length) (s : State) :
    Returns (.decU8 bytes off) s (.ok (.value (byteAt bytes off).toNat (off + 1))) := by
  have hread : decodeUInt s.params.endian 1 bytes off = .ok ((byteAt bytes off).toNat, off + 1) := by
    rw [decodeUInt_of_fits h, memRead_one h, inByteOrder_of_length_le_one le_rfl]
    rfl
  exact answer_of_eq_ok _ _ hread

theorem returns_decU16_of_fits {bytes : Bytes} {off : Nat} (h : off + 2 ≤ bytes.length) (s : State) :
    Returns (.decU16 bytes off) s
      (.ok (.value (leNat (inByteOrder s.params.endian (memRead bytes off 2))) (off + 2))) :=
  answer_of_eq_ok _ _ (decodeUInt_of_fits h s.params.endian)

/-! ### Any operation in two states that agree on what it reads (R21, R67) -/

/-- R38, R67: the configuration is all that a pure operation reads. -/
theorem agreeOnReads_of_pure {i : Instr} {s s' : State} (hpure : IsPure i = true) (h : s.params = s'.params) :
    AgreeOnReads i s s' := by
  cases i with
  | feed b => cases hpure
  | reset => cases hpure
  | reservedF => cases hpure
  | _ => simp [AgreeOnReads, h]

theorem agreeOnReads_respond (i : Instr) (s : State) (r : Response) : AgreeOnReads i s (s.respond r) :=
  agreeOnReads_refl i s

/-! ### One step (R66, R240) -/

theorem step_of_no_input {s : State} (hconf : s.Configured) (h : s.inputs = []) : step s = .next s := by
  rw [step, if_pos hconf, takeInput_nil s h]

theorem step_of_command {s : State} {c : Command} {rest : List Input} (hconf : s.Configured)
    (h : s.inputs = .command c :: rest) : step s = exec (decode c) { s with inputs := rest } := by
  rw [step, if_pos hconf, takeInput_cons s _ rest h]

end Sys2Proof.Machine

namespace Sys2Proof

open Sys2Proof.Machine

/-- R63, R67: an operation answers the same and leaves the same Decoder State in a state that agrees on what it
reads; a pure operation leaves the Decoder State it finds. -/
theorem returnsWith_of_agree {i : Instr} {s s' : State} {d : Decoder} {r : Response}
    (hagree : AgreeOnReads i s s') (h : ReturnsWith i s d r) :
    ReturnsWith i s' (if IsPure i then s'.dec else d) r := by
  obtain ⟨t', hexec, ⟨q, hs, hs'⟩, hdec⟩ := operationsReadOnlyWhatTheTableSays i s s' _ hagree h
  obtain ⟨hcfg, hsource, hreg, hinputs, -⟩ := exec_frame hexec
  obtain rfl : r = q := by simpa using hs
  have hdec' : t'.dec = if IsPure i then s'.dec else d := by
    by_cases hpure : IsPure i = true
    · rw [if_pos hpure] at hdec ⊢
      exact hdec.2
    · rwa [if_neg hpure] at hdec ⊢
  rw [ReturnsWith, hexec, ← hdec', ← hs', ← hcfg, ← hsource, ← hreg, ← hinputs]

theorem dec_eq_of_pure_returnsWith {i : Instr} {s : State} {d : Decoder} {r : Response} (hpure : IsPure i = true)
    (h : ReturnsWith i s d r) : d = s.dec := by
  obtain ⟨q, hq⟩ := pureOperationsOnlyReturnAResponse i s hpure
  injection h.symm.trans hq with hstate
  exact congrArg State.dec hstate

/-- Settles O19: `encodeUInt_eq_ok_iff` makes the encoding four bytes that stand for `v`, and the number of four bytes
is made of its two halves, the first of them low under LE and high under BE. -/
theorem mixedWidthAccessSeesTheSameBytes : Obligations.MixedWidthAccessSeesTheSameBytes := by
  intro s v bs h
  obtain ⟨hlen, rfl⟩ := encodeUInt_eq_ok_iff.mp (returns_encU32_bytes_iff.mp h)
  match bs, hlen with
  | [b0, b1, b2, b3], _ =>
    refine ⟨b0, b1, b2, b3, rfl, returns_decU8_of_fits (by simp) s, returns_decU8_of_fits (by simp) s,
      returns_decU8_of_fits (by simp) s, returns_decU8_of_fits (by simp) s,
      _, _, returns_decU16_of_fits (by simp) s, returns_decU16_of_fits (by simp) s, congrArg _ ?_⟩
    cases s.params.endian with
    | le => exact leNat_append_of_length_two (a := [b0, b1]) rfl [b2, b3]
    | be => exact (leNat_append_of_length_two (a := [b3, b2]) rfl [b1, b0]).trans (Nat.add_comm _ _)

/-- Settles O56: the two states agree on what the pure operation reads, the configuration, and on all that any
operation reads where only a response was added. -/
theorem pureOperationsCommuteWithEverything : Obligations.PureOperationsCommuteWithEverything := by
  intro i j s r q d hpure hi hj
  constructor
  · have hi' := returnsWith_of_agree (s := s) (s' := { s with dec := d, responses := s.responses ++ [q] })
      (d := s.dec) (agreeOnReads_of_pure hpure rfl) hi
    rwa [if_pos hpure] at hi'
  · have hj' := returnsWith_of_agree (agreeOnReads_respond j s r) hj
    by_cases hjpure : IsPure j = true
    · rwa [if_pos hjpure, respond_dec, ← dec_eq_of_pure_returnsWith hjpure hj] at hj'
    · rwa [if_neg hjpure] at hj'

/-- Settles O57: a configured block looks at its inputs, and `takeInput` gives the oldest or none. -/
theorem stepPerformsTheOldestCommandOrNothing : Obligations.StepPerformsTheOldestCommandOrNothing :=
  ⟨fun _ _ _ => step_of_command, fun _ => step_of_no_input⟩

end Sys2Proof
end

-- ==== Command codes and event records ====
section
/-! PROOFS. Which command stands for an operation (spec/30_encoding.md rules R91, R95, R96) and which EVT record stands
for an event (rule R92). -/

namespace Sys2Proof

/-! ### Op codes (R95, R96) -/

@[simp] theorem decode_encode (i : Instr) : decode (encode i) = i := by
  cases i <;> rfl

theorem decode_eq_reservedF_iff (c : Command) : decode c = .reservedF ↔ c.op = 0xF#4 := by
  constructor
  · intro h
    by_contra hop
    exact Machine.decode_op_lt_15 c hop h
  · intro hop
    simp [decode, hop]

theorem encode_decode_op (c : Command) : (encode (decode c)).op = c.op := by
  by_cases hreserved : decode c = .reservedF
  · rw [hreserved]
    exact ((decode_eq_reservedF_iff c).mp hreserved).symm
  · revert hreserved
    fun_cases decode c
    case case16 => exact fun hreserved => absurd rfl hreserved
    all_goals exact fun _ => Eq.symm ‹_›

theorem decodeTableWord_of_command_eq_encode {nbits w : Nat} {i : Instr} (h : commandOfWord nbits w = encode i) :
    decodeTableWord nbits w = some i := by
  rw [decodeTableWord, h, decode_encode]

end Sys2Proof

namespace Sys2Proof.Machine

theorem exec_reservedF (s : State) : exec .reservedF s = .refused .reservedOperation := rfl

/-! ### Reason codes (R231) -/

theorem ofCode_eq_some_iff {c : BitVec 4} {e : ErrorKind} : ErrorKind.ofCode c = some e ↔ c = e.code := by
  revert c
  cases e <;> decide

/-- R188: the four reasons of a FrameRejected event. -/
theorem isFeedReason_iff {e : ErrorKind} : e.isFeedReason = true ↔
    e = .payloadTooLarge ∨ e = .checksumMismatch ∨ e = .unknownMessageType ∨ e = .payloadShapeMismatch := by
  cases e <;> decide

/-! ### EVT (R92) -/

section
variable {h : BitVec 29} {payload : Bytes}

/-- R92: the five fields are the whole header. -/
theorem evtHeader_eq_iff {k : BitVec 1} {r : BitVec 4} {d t l : Byte} : evtHeader k r d t l = h ↔
    h.extractLsb' 0 1 = k ∧ h.extractLsb' 1 4 = r ∧ h.extractLsb' 5 8 = d ∧ h.extractLsb' 13 8 = t ∧
      h.extractLsb' 21 8 = l := by
  constructor
  · rintro rfl
    exact evtHeader_fields k r d t l
  · rintro ⟨rfl, rfl, rfl, rfl, rfl⟩
    exact (evtHeader_of_fields h).symm

/-- R92: what a header with `kind` 0 decodes to. -/
theorem evtDecode_of_packet_kind {ev : Event} (hkind : h.extractLsb' 0 1 = 0#1) :
    evtDecode h payload = some ev ↔ (h.extractLsb' 1 4 = 0#4 ∧ (h.extractLsb' 21 8).toNat = payload.length) ∧
      Event.packet ⟨h.extractLsb' 5 8, h.extractLsb' 13 8, payload⟩ = ev := by
  have hbit : ¬ h.getLsbD 0 = true := by
    rw [← extractLsb'_one_eq_one_iff, hkind]
    decide
  simp only [evtDecode, if_neg hbit, Option.ite_none_right_eq_some, Option.some.injEq]

/-- R92: what a header with `kind` 1 decodes to. -/
theorem evtDecode_of_rejection_kind {ev : Event} (hkind : h.extractLsb' 0 1 = 1#1) :
    evtDecode h payload = some ev ↔
      (h.extractLsb' 5 8 = 0#8 ∧ h.extractLsb' 13 8 = 0#8 ∧ h.extractLsb' 21 8 = 0#8 ∧ payload = []) ∧
        ∃ e : ErrorKind, h.extractLsb' 1 4 = e.code ∧ e.isFeedReason = true ∧ Event.frameRejected e = ev := by
  have hbit : h.getLsbD 0 = true := (extractLsb'_one_eq_one_iff h 0).mp hkind
  simp only [evtDecode, if_pos hbit, Option.ite_none_right_eq_some, ← ofCode_eq_some_iff]
  cases ErrorKind.ofCode (h.extractLsb' 1 4) with
  | none => simp
  | some e => simp

/-- R92: the records that decode to a packet are those of packets whose length the field holds. -/
theorem evtDecode_eq_some_packet_iff {p : Packet} : evtDecode h payload = some (.packet p) ↔
    evtEncode (.packet p) = (h, payload) ∧ p.payload.length ≤ 255 := by
  obtain ⟨d, t, data⟩ := p
  simp only [evtEncode, Prod.mk.injEq, evtHeader_eq_iff]
  rcases BitVec.eq_zero_or_eq_one (h.extractLsb' 0 1) with hkind | hkind
  · rw [evtDecode_of_packet_kind hkind, BitVec.toNat_eq_nat]
    simp only [Event.packet.injEq, Packet.mk.injEq, hkind, true_and]
    constructor
    · rintro ⟨⟨hreason, hlt, hlen⟩, hd, ht, rfl⟩
      exact ⟨⟨⟨hreason, hd, ht, hlen⟩, rfl⟩, Nat.le_of_lt_succ hlt⟩
    · rintro ⟨⟨⟨hreason, hd, ht, hlen⟩, rfl⟩, hle⟩
      exact ⟨⟨hreason, Nat.lt_succ_of_le hle, hlen⟩, hd, ht, rfl⟩
  · simp [evtDecode_of_rejection_kind hkind, hkind]

/-- R92: the records that decode to a rejection are those of the four reasons R92 lists. -/
theorem evtDecode_eq_some_frameRejected_iff {e : ErrorKind} : evtDecode h payload = some (.frameRejected e) ↔
    evtEncode (.frameRejected e) = (h, payload) ∧ e.isFeedReason = true := by
  simp only [evtEncode, Prod.mk.injEq, evtHeader_eq_iff]
  rcases BitVec.eq_zero_or_eq_one (h.extractLsb' 0 1) with hkind | hkind
  · simp [evtDecode_of_packet_kind hkind, hkind]
  · simp only [evtDecode_of_rejection_kind hkind, Event.frameRejected.injEq, exists_eq_right_right, hkind, true_and]
    constructor
    · rintro ⟨⟨hd, ht, hl, hpayload⟩, hreason, hfeed⟩
      exact ⟨⟨⟨hreason, hd, ht, hl⟩, hpayload.symm⟩, hfeed⟩
    · rintro ⟨⟨⟨hreason, hd, ht, hl⟩, hpayload⟩, hfeed⟩
      exact ⟨⟨hd, ht, hl, hpayload.symm⟩, hreason, hfeed⟩

end

theorem evtHeader_rejection_zeros (r : BitVec 4) : (evtHeader 1#1 r 0#8 0#8 0#8).extractLsb' 5 24 = 0#24 := by
  revert r
  decide

end Sys2Proof.Machine

namespace Sys2Proof

open Sys2Proof.Machine

/-- Settles O3: `evtDecode_eq_some_packet_iff` and `evtDecode_eq_some_frameRejected_iff` read an event's own record
back, and its fields are those of `evtHeader_fields`. -/
theorem eventRecordsDecodeBack : Obligations.EventRecordsDecodeBack := by
  constructor
  · intro p hlen
    obtain ⟨hkind, hreason, hd, ht, hl⟩ :=
      evtHeader_fields 0#1 0#4 p.deviceId p.messageType (BitVec.ofNat 8 p.payload.length)
    exact ⟨evtDecode_eq_some_packet_iff.mpr ⟨rfl, hlen⟩, hkind, hreason, hd, ht,
      (congrArg BitVec.toNat hl).trans (toNat_ofNat_of_le_255 hlen), rfl⟩
  · intro e he
    obtain ⟨hkind, hreason, -⟩ := evtHeader_fields 1#1 e.code 0#8 0#8 0#8
    exact ⟨evtDecode_eq_some_frameRejected_iff.mpr ⟨rfl, isFeedReason_iff.mpr he⟩, hkind, hreason,
      evtHeader_rejection_zeros e.code, rfl⟩

/-- Settles O4: what decodes to an event is the record of that event, for each of the two events. -/
theorem eventRecordsAreUnambiguous : Obligations.EventRecordsAreUnambiguous := by
  intro h payload ev hdecode
  cases ev with
  | packet p => exact (evtDecode_eq_some_packet_iff.mp hdecode).1
  | frameRejected e => exact (evtDecode_eq_some_frameRejected_iff.mp hdecode).1

/-- Settles O1: `decode` undoes `encode` on each of the sixteen instructions, and each arm of `decode` answers an
instruction whose command has the code the arm matched. -/
theorem everyOperationDecodesFromItsCommand : Obligations.EveryOperationDecodesFromItsCommand :=
  ⟨decode_encode, encode_decode_op⟩

/-- Settles O2: each table word stands for the command that `encode` gives its operation. -/
theorem tableWordsDecodeToTheirOperations : Obligations.TableWordsDecodeToTheirOperations := by
  refine ⟨?_, ?_, ?_, ?_, ?_, ?_, ?_, ?_, ?_, ?_, ?_, ?_, ?_, ?_, ?_, ?_⟩
  all_goals exact decodeTableWord_of_command_eq_encode rfl

/-- Settles O52: only the last arm of `decode` answers the reserved operation, and `exec` refuses it. -/
theorem reservedCodeIsRefused : Obligations.ReservedCodeIsRefused :=
  ⟨decode_eq_reservedF_iff, exec_reservedF⟩

end Sys2Proof
end

-- ==== Field Codec results, round trips and chained decodes ====
section
/-! PROOFS. What the eight operations of the Field Codec answer, that they undo each other, and that decodes chain
(spec/40_field_codec.md rules R111 to R122). -/

namespace Sys2Proof.Machine

/-! ### The response of a pure operation (R90, R245) -/

/-- R90, R245: the response that carries a pure operation's result or its error. -/
def responseOf {α : Type} (f : α → Result) : Except ErrorKind α → Response
  | .ok a => .ok (f a)
  | .error e => .error e

section
variable {α : Type} {f : α → Result} {x : Except ErrorKind α}

theorem answer_eq_respond_iff {s : State} {r : Response} :
    s.answer f x = .next (s.respond r) ↔ responseOf f x = r := by
  cases x with
  | ok a => simp [responseOf, respond_inj]
  | error e => simp [responseOf, respond_inj]

theorem responseOf_eq_ok_iff (hf : Function.Injective f) {a : α} : responseOf f x = .ok (f a) ↔ x = .ok a := by
  cases x with
  | ok b => simp [responseOf, hf.eq_iff]
  | error e => simp [responseOf]

/-- An error stays the same error where only the result would differ. -/
theorem responseOf_map_eq_error {e : ErrorKind} (g : α → α) (h : responseOf f x = .error e) :
    responseOf f (x.map g) = .error e := by
  cases x with
  | ok a => cases h
  | error e' => exact h

end

theorem bytes_injective : Function.Injective Result.bytes := fun _ _ => Result.bytes.inj

theorem value_injective : Function.Injective (Function.uncurry Result.value) :=
  Function.Injective2.uncurry fun _ _ _ _ => Result.value.inj

theorem data_injective : Function.Injective (Function.uncurry Result.data) :=
  Function.Injective2.uncurry fun _ _ _ _ => Result.data.inj

/-! ### The eight operations (R112 to R119) -/

/-- R95: the operation of a command whose code is known. -/
theorem decode_of_op {c : Command} {op : BitVec 4} (h : c.op = op) : decode c = decode { c with op := op } := by
  rw [← h]

section
variable {s : State} {v : Int} {bytes : Bytes} {off n : Nat} {r : Response}

theorem returns_encU8_iff : Returns (.encU8 v) s r ↔ responseOf .bytes (encodeUInt s.params.endian 1 v) = r :=
  answer_eq_respond_iff

theorem returns_encU16_iff : Returns (.encU16 v) s r ↔ responseOf .bytes (encodeUInt s.params.endian 2 v) = r :=
  answer_eq_respond_iff

theorem returns_encU32_iff : Returns (.encU32 v) s r ↔ responseOf .bytes (encodeUInt s.params.endian 4 v) = r :=
  answer_eq_respond_iff

theorem returns_encBytes (data : Bytes) (s : State) : Returns (.encBytes data) s (.ok (.bytes data)) :=
  answer_ok s .bytes data

theorem returns_decU8_iff : Returns (.decU8 bytes off) s r ↔
    responseOf (Function.uncurry .value) (decodeUInt s.params.endian 1 bytes off) = r :=
  answer_eq_respond_iff

theorem returns_decU16_iff : Returns (.decU16 bytes off) s r ↔
    responseOf (Function.uncurry .value) (decodeUInt s.params.endian 2 bytes off) = r :=
  answer_eq_respond_iff

theorem returns_decU32_iff : Returns (.decU32 bytes off) s r ↔
    responseOf (Function.uncurry .value) (decodeUInt s.params.endian 4 bytes off) = r :=
  answer_eq_respond_iff

theorem returns_decBytes_iff : Returns (.decBytes bytes off n) s r ↔
    responseOf (Function.uncurry .data) (decodeRaw bytes off n) = r :=
  answer_eq_respond_iff

end

/-! ### Encodes (R111 to R114) -/

/-- R111: the test for range is the whole test, and passing it gives the `k` bytes. -/
theorem responseOf_encodeUInt {k : Nat} {bound v : Int} (hbound : ((256 ^ k : Nat) : Int) = bound) (e : Endian) :
    responseOf .bytes (encodeUInt e k v) =
      if 0 ≤ v ∧ v < bound then .ok (.bytes (inByteOrder e (leBytes k v.toNat))) else .error .valueOutOfRange := by
  rw [encodeUInt, hbound]
  by_cases h : 0 ≤ v ∧ v < bound
  · rw [if_pos h, if_neg (by omega)]
    rfl
  · rw [if_neg h, if_pos (by omega)]
    rfl

/-- A byte is a number modulo 256. -/
theorem ofInt_emod_256 (v : Int) : BitVec.ofInt 8 (v % 256) = BitVec.ofInt 8 v := by
  apply BitVec.eq_of_toNat_eq
  simp [BitVec.toNat_ofInt]

/-- R55: the least significant byte of an integer, and the bytes of what is above it. -/
theorem leBytes_toNat_succ {v : Int} (h : 0 ≤ v) (k : Nat) :
    leBytes (k + 1) v.toNat = BitVec.ofInt 8 v :: leBytes k (v / 256).toNat := by
  lift v to Nat using h
  have hbyte : BitVec.ofInt 8 (v : Int) = BitVec.ofNat 8 (v % 256) := by
    rw [← ofInt_emod_256]
    exact BitVec.ofInt_natCast 8 (v % 256)
  rw [hbyte]
  rfl

theorem leBytes_toNat_one {v : Int} (h : 0 ≤ v) : leBytes 1 v.toNat = [BitVec.ofInt 8 v] :=
  leBytes_toNat_succ h 0

theorem leBytes_toNat_two {v : Int} (h : 0 ≤ v) :
    leBytes 2 v.toNat = [BitVec.ofInt 8 v, BitVec.ofInt 8 (v / 256)] := by
  rw [leBytes_toNat_succ h, leBytes_toNat_one (by omega)]

theorem leBytes_toNat_four {v : Int} (h : 0 ≤ v) : leBytes 4 v.toNat =
    [BitVec.ofInt 8 v, BitVec.ofInt 8 (v / 256), BitVec.ofInt 8 (v / 65536), BitVec.ofInt 8 (v / 16777216)] := by
  rw [leBytes_toNat_succ h, leBytes_toNat_succ (by omega), leBytes_toNat_two (by omega)]
  simp only [Int.ediv_ediv_of_nonneg, Int.reduceMul, Int.reduceLE]

/-! ### Decodes (R111, R116 to R119) -/

theorem decodeUInt_of_short {k : Nat} {bytes : Bytes} {off : Nat} (h : bytes.length < off + k) (e : Endian) :
    decodeUInt e k bytes off = .error .bufferTooShort :=
  if_pos h

theorem decodeRaw_of_fits {bytes : Bytes} {off n : Nat} (h : off + n ≤ bytes.length) :
    decodeRaw bytes off n = .ok (memRead bytes off n, off + n) :=
  if_neg h.not_gt

theorem decodeRaw_of_short {bytes : Bytes} {off n : Nat} (h : bytes.length < off + n) :
    decodeRaw bytes off n = .error .bufferTooShort :=
  if_pos h

theorem memRead_append_whole (a b : Bytes) : memRead (a ++ b) 0 a.length = a := by
  simp [memRead, slice]

theorem memRead_whole (bytes : Bytes) : memRead bytes 0 bytes.length = bytes := by
  simpa using memRead_append_whole bytes []

theorem leNat_four (b0 b1 b2 b3 : Byte) :
    leNat [b0, b1, b2, b3] = b0.toNat + 256 * b1.toNat + 65536 * b2.toNat + 16777216 * b3.toNat := by
  simp only [leNat]
  omega

/-- R116 to R118: a decode sees the operand from the offset on, and reads its first `k` bytes. -/
theorem decodeUInt_eq_of_drop {k : Nat} {bytes : Bytes} {off : Nat} (hk : 0 < k) (e : Endian) :
    decodeUInt e k bytes off =
      if (bytes.drop off).length < k then .error .bufferTooShort
      else .ok (leNat (inByteOrder e ((bytes.drop off).take k)), off + k) := by
  rw [decodeUInt, memRead, slice_add, List.length_drop]
  exact if_congr (by omega) rfl rfl

/-- R122: behind a sequence the same bytes are read, and the next offset is larger by its length. -/
theorem decodeRaw_append (a b : Bytes) (n : Nat) :
    decodeRaw (a ++ b) a.length n = (decodeRaw b 0 n).map (Prod.map id (a.length + ·)) := by
  have hlen : (a ++ b).length = a.length + b.length := List.length_append
  by_cases h : 0 + n ≤ b.length
  · rw [decodeRaw_of_fits h, decodeRaw_of_fits (by omega), memRead_append, Nat.zero_add]
    rfl
  · rw [decodeRaw_of_short (by omega), decodeRaw_of_short (by omega)]
    rfl

/-- R116 to R118: an integer is decoded from the bytes DEC_BYTES reads. -/
theorem decodeUInt_eq_map_decodeRaw (e : Endian) (k : Nat) (bytes : Bytes) (off : Nat) :
    decodeUInt e k bytes off = (decodeRaw bytes off k).map (Prod.map (leNat ∘ inByteOrder e) id) := by
  by_cases h : off + k ≤ bytes.length
  · rw [decodeUInt_of_fits h, decodeRaw_of_fits h]
    rfl
  · rw [decodeUInt_of_short (by omega), decodeRaw_of_short (by omega)]
    rfl

theorem decodeUInt_append (e : Endian) (k : Nat) (a b : Bytes) :
    decodeUInt e k (a ++ b) a.length = (decodeUInt e k b 0).map (Prod.map id (a.length + ·)) := by
  rw [decodeUInt_eq_map_decodeRaw, decodeUInt_eq_map_decodeRaw, decodeRaw_append]
  cases decodeRaw b 0 k with
  | ok r => rfl
  | error err => rfl

theorem decodeRaw_eq_ok_iff {bytes d : Bytes} {off n m : Nat} :
    decodeRaw bytes off n = .ok (d, m) ↔ off + n ≤ bytes.length ∧ memRead bytes off n = d ∧ off + n = m := by
  rw [decodeRaw, ite_error_eq_ok_iff, Except.ok.injEq, Prod.mk.injEq, gt_iff_lt, not_lt]

theorem decodeUInt_eq_ok_iff {e : Endian} {k : Nat} {bytes : Bytes} {off v m : Nat} :
    decodeUInt e k bytes off = .ok (v, m) ↔
      off + k ≤ bytes.length ∧ leNat (inByteOrder e (memRead bytes off k)) = v ∧ off + k = m := by
  rw [decodeUInt, ite_error_eq_ok_iff, Except.ok.injEq, Prod.mk.injEq, gt_iff_lt, not_lt]

theorem decodeUInt_whole (e : Endian) (bytes : Bytes) :
    decodeUInt e bytes.length bytes 0 = .ok (leNat (inByteOrder e bytes), bytes.length) := by
  rw [decodeUInt_of_fits (Nat.zero_add _).le, memRead_whole, Nat.zero_add]

/-- R121: `bytes` encode `v` exactly when they decode to `v`. -/
theorem encodeUInt_eq_ok_iff_decodeUInt {e : Endian} {k v : Nat} {bytes : Bytes} (hlen : bytes.length = k) :
    encodeUInt e k v = .ok bytes ↔ decodeUInt e k bytes 0 = .ok (v, k) := by
  subst hlen
  rw [encodeUInt_eq_ok_iff, decodeUInt_whole]
  simp [eq_comm]

/-- R55: reversed bytes in the other byte order are the bytes in this one. -/
theorem inByteOrder_reverse_of_ne {e e' : Endian} (h : e ≠ e') (bytes : Bytes) :
    inByteOrder e' bytes.reverse = inByteOrder e bytes := by
  cases e with
  | le =>
    cases e' with
    | le => exact absurd rfl h
    | be => exact List.reverse_reverse bytes
  | be =>
    cases e' with
    | le => rfl
    | be => exact absurd rfl h

theorem decodeUInt_reverse_of_ne {e e' : Endian} (h : e ≠ e') {k : Nat} {bytes : Bytes} (hlen : bytes.length = k) :
    decodeUInt e' k bytes.reverse 0 = decodeUInt e k bytes 0 := by
  subst hlen
  have hreverse := decodeUInt_whole e' bytes.reverse
  rwa [List.length_reverse, inByteOrder_reverse_of_ne h, ← decodeUInt_whole e] at hreverse

/-! ### Round trips and chains (R121, R122) -/

/-- R121: an integer in range has bytes that decode back to it. -/
theorem encoded_decodes_back {k : Nat} {bound v : Int} (hbound : ((256 ^ k : Nat) : Int) = bound) (h0 : 0 ≤ v)
    (hlt : v < bound) (e : Endian) : ∃ bytes, responseOf .bytes (encodeUInt e k v) = .ok (.bytes bytes) ∧
      responseOf (Function.uncurry .value) (decodeUInt e k bytes 0) = .ok (.value v.toNat k) := by
  lift v to Nat using h0
  have hencode := (responseOf_encodeUInt hbound e).trans (if_pos ⟨Int.natCast_nonneg v, hlt⟩)
  have hdecode := (encodeUInt_eq_ok_iff_decodeUInt (by simp)).mp ((responseOf_eq_ok_iff bytes_injective).mp hencode)
  exact ⟨_, hencode, (responseOf_eq_ok_iff value_injective).mpr hdecode⟩

/-- R121: `k` bytes are an integer whose encoding they are. -/
theorem decoded_encodes_back {k : Nat} {bytes : Bytes} (hlen : bytes.length = k) (e : Endian) :
    ∃ v : Nat, responseOf (Function.uncurry .value) (decodeUInt e k bytes 0) = .ok (.value v k) ∧
      responseOf .bytes (encodeUInt e k v) = .ok (.bytes bytes) := by
  have hdecode : decodeUInt e k bytes 0 = .ok (leNat (inByteOrder e bytes), k) := hlen ▸ decodeUInt_whole e bytes
  exact ⟨_, (responseOf_eq_ok_iff value_injective).mpr hdecode,
    (responseOf_eq_ok_iff bytes_injective).mpr ((encodeUInt_eq_ok_iff_decodeUInt hlen).mpr hdecode)⟩

/-- R122: a value read at the start of `b` is read behind `a`, and each next offset is the end of what was read. -/
theorem decodeUInt_chains {e : Endian} {k : Nat} (a : Bytes) {b : Bytes} {v n : Nat}
    (h : responseOf (Function.uncurry .value) (decodeUInt e k b 0) = .ok (.value v n)) :
    n = k ∧
      responseOf (Function.uncurry .value) (decodeUInt e k (a ++ b) a.length) = .ok (.value v (a.length + n)) := by
  have hread : decodeUInt e k b 0 = .ok (v, n) := (responseOf_eq_ok_iff value_injective).mp h
  obtain ⟨-, -, hnext⟩ := decodeUInt_eq_ok_iff.mp hread
  refine ⟨by omega, ?_⟩
  rw [decodeUInt_append, hread]
  rfl

theorem decodeRaw_chains {k : Nat} (a : Bytes) {b d : Bytes} {n : Nat}
    (h : responseOf (Function.uncurry .data) (decodeRaw b 0 k) = .ok (.data d n)) :
    n = k ∧ responseOf (Function.uncurry .data) (decodeRaw (a ++ b) a.length k) = .ok (.data d (a.length + n)) := by
  have hread : decodeRaw b 0 k = .ok (d, n) := (responseOf_eq_ok_iff data_injective).mp h
  obtain ⟨-, -, hnext⟩ := decodeRaw_eq_ok_iff.mp hread
  refine ⟨by omega, ?_⟩
  rw [decodeRaw_append, hread]
  rfl

theorem decodeUInt_append_error {e : Endian} {k : Nat} (a : Bytes) {b : Bytes} {err : ErrorKind}
    (h : responseOf (Function.uncurry .value) (decodeUInt e k b 0) = .error err) :
    responseOf (Function.uncurry .value) (decodeUInt e k (a ++ b) a.length) = .error err := by
  rw [decodeUInt_append]
  exact responseOf_map_eq_error _ h

theorem decodeRaw_append_error {k : Nat} (a : Bytes) {b : Bytes} {err : ErrorKind}
    (h : responseOf (Function.uncurry .data) (decodeRaw b 0 k) = .error err) :
    responseOf (Function.uncurry .data) (decodeRaw (a ++ b) a.length k) = .error err := by
  rw [decodeRaw_append]
  exact responseOf_map_eq_error _ h

end Sys2Proof.Machine

namespace Sys2Proof

open Sys2Proof.Machine

/-- Settles O9: one byte is the same in both byte orders, and `responseOf_encodeUInt` is the test for range. -/
theorem encU8ReturnsTheByteOrValueOutOfRange : Obligations.EncU8ReturnsTheByteOrValueOutOfRange := by
  refine ⟨fun c => decode_of_op, fun v s => ?_⟩
  rw [returns_encU8_iff, responseOf_encodeUInt (bound := 256) rfl]
  refine if_ctx_congr Iff.rfl (fun h => ?_) fun _ => rfl
  rw [inByteOrder_of_length_le_one (leBytes_length 1 _).le, leBytes_toNat_one h.1]

/-- Settles O10: `leBytes_toNat_two` gives the low and the high byte, and BE turns them round. -/
theorem encU16ReturnsTwoBytesInByteOrder : Obligations.EncU16ReturnsTwoBytesInByteOrder := by
  refine ⟨fun c => decode_of_op, fun v s => ?_⟩
  rw [returns_encU16_iff, responseOf_encodeUInt (bound := 65536) rfl]
  refine if_ctx_congr Iff.rfl (fun h => ?_) fun _ => rfl
  rw [leBytes_toNat_two h.1]
  simp only [ofInt_emod_256]
  cases s.params.endian with
  | le => rfl
  | be => rfl

/-- Settles O11: `leBytes_toNat_four` gives the bytes from the least significant on, and BE turns them round. -/
theorem encU32ReturnsFourBytesInByteOrder : Obligations.EncU32ReturnsFourBytesInByteOrder := by
  refine ⟨fun c => decode_of_op, fun v s => ?_⟩
  rw [returns_encU32_iff, responseOf_encodeUInt (bound := 4294967296) rfl]
  refine if_ctx_congr Iff.rfl (fun h => ?_) fun _ => rfl
  rw [leBytes_toNat_four h.1]
  simp only [ofInt_emod_256]
  cases s.params.endian with
  | le => rfl
  | be => rfl

/-- Settles O12: the meaning of ENC_BYTES is a result, its operand. -/
theorem encBytesReturnsItsOperand : Obligations.EncBytesReturnsItsOperand :=
  ⟨fun _ => decode_of_op, returns_encBytes⟩

/-- Settles O13: the operand from the offset on is empty, or its first byte is the value. -/
theorem decU8ReturnsTheByteOrBufferTooShort : Obligations.DecU8ReturnsTheByteOrBufferTooShort := by
  refine ⟨fun c => decode_of_op, fun bytes off s => ?_⟩
  rw [returns_decU8_iff, decodeUInt_eq_of_drop one_pos, ← List.head?_drop]
  rcases bytes.drop off with _ | ⟨b0, t⟩
  · rfl
  · rw [if_neg (by simp), inByteOrder_of_length_le_one (by simp)]
    rfl

/-- Settles O14: the operand from the offset on has no byte, one, or the two that are read. -/
theorem decU16ReturnsTheValueOrBufferTooShort : Obligations.DecU16ReturnsTheValueOrBufferTooShort := by
  refine ⟨fun c => decode_of_op, fun bytes off s => ?_⟩
  rw [returns_decU16_iff, decodeUInt_eq_of_drop two_pos, ← List.getElem?_drop, ← List.head?_drop (i := off)]
  rcases bytes.drop off with _ | ⟨b0, _ | ⟨b1, t⟩⟩
  · rfl
  · rfl
  · rw [if_neg (by simp)]
    cases s.params.endian with
    | le => rfl
    | be =>
      exact congrArg (fun v => Response.ok (.value v (off + 2))) (Nat.add_comm b1.toNat (256 * b0.toNat))

/-- Settles O15: the operand from the offset on has fewer than four bytes, or the four that are read. -/
theorem decU32ReturnsTheValueOrBufferTooShort : Obligations.DecU32ReturnsTheValueOrBufferTooShort := by
  refine ⟨fun c => decode_of_op, fun bytes off s => ?_⟩
  rw [returns_decU32_iff, decodeUInt_eq_of_drop four_pos, ← List.getElem?_drop, ← List.getElem?_drop,
    ← List.getElem?_drop, ← List.head?_drop (i := off)]
  rcases bytes.drop off with _ | ⟨b0, _ | ⟨b1, _ | ⟨b2, _ | ⟨b3, t⟩⟩⟩⟩
  · rfl
  · rfl
  · rfl
  · rfl
  · rw [if_neg (by simp)]
    refine congrArg (fun v => Response.ok (.value v (off + 4))) ?_
    cases s.params.endian with
    | le => exact leNat_four b0 b1 b2 b3
    | be =>
      refine (leNat_four b3 b2 b1 b0).trans ?_
      dsimp only
      omega

/-- Settles O16: DEC_BYTES makes one test, and behind `a` the bytes of `data` are what it reads. -/
theorem decBytesReturnsTheSliceOrBufferTooShort : Obligations.DecBytesReturnsTheSliceOrBufferTooShort := by
  refine ⟨fun c => decode_of_op, fun a data b s => ?_, fun bytes off n s h => ?_⟩
  · rw [returns_decBytes_iff, decodeRaw_of_fits (by simp), List.append_assoc, memRead_append, memRead_append_whole]
    rfl
  · rw [returns_decBytes_iff, decodeRaw_of_short h]
    rfl

/-- Settles O17: at every width, `k` bytes encode `v` exactly when they decode to `v`
(`encodeUInt_eq_ok_iff_decodeUInt`), and reversing the bytes and changing the order cancel out. -/
theorem integerCodecRoundTrips : Obligations.IntegerCodecRoundTrips := by
  intro s
  simp only [returns_encU8_iff, returns_encU16_iff, returns_encU32_iff, returns_decU8_iff, returns_decU16_iff,
    returns_decU32_iff]
  refine ⟨fun v h0 hlt => encoded_decodes_back rfl h0 hlt _, fun v h0 hlt => encoded_decodes_back rfl h0 hlt _,
    fun v h0 hlt => encoded_decodes_back rfl h0 hlt _, fun bytes hlen => decoded_encodes_back hlen _,
    fun bytes hlen => decoded_encodes_back hlen _, fun bytes hlen => decoded_encodes_back hlen _,
    fun data => ⟨returns_encBytes data s, ?_⟩,
    fun s' hne => ⟨fun bytes v hlen h => ?_, fun bytes v hlen h => ?_⟩⟩
  · rw [returns_decBytes_iff, decodeRaw_of_fits (Nat.zero_add _).le, memRead_whole, Nat.zero_add]
    rfl
  · rwa [decodeUInt_reverse_of_ne hne hlen]
  · rwa [decodeUInt_reverse_of_ne hne hlen]

/-- Settles O18: a decode behind `a` is the decode at the start of `b` with the next offset moved up
(`decodeUInt_append`, `decodeRaw_append`), so a value and an error both carry over. -/
theorem decodesChainByNextOffset : Obligations.DecodesChainByNextOffset := by
  intro s a b
  simp only [returns_decU8_iff, returns_decU16_iff, returns_decU32_iff, returns_decBytes_iff]
  exact ⟨fun v n => decodeUInt_chains a, fun v n => decodeUInt_chains a, fun v n => decodeUInt_chains a,
    fun k d n => decodeRaw_chains a, fun e => decodeUInt_append_error a, fun e => decodeUInt_append_error a,
    fun e => decodeUInt_append_error a, fun k e => decodeRaw_append_error a⟩

end Sys2Proof
end

-- ==== Checksums and the checksum byte of a Frame ====
section
/-! PROOFS. What the Checksum Unit answers, the algebra of XOR8 and ADD8, and where FRAME_ENCODE puts the checksum
(spec/41_checksum.md rules R131 to R137). -/

namespace Sys2Proof.Machine

/-! ### Folds of an associative operation (R133, R134) -/

section
variable {α : Type} {op : α → α → α} {e : α} [Std.Associative op]

/-- Where `e` is neutral, a concatenation folds to the two parts' folds, joined. -/
theorem foldl_op_append [Std.LawfulIdentity op e] (a b : List α) :
    (a ++ b).foldl op e = op (a.foldl op e) (b.foldl op e) := by
  rw [List.foldl_append, ← List.foldl_assoc (op := op), Std.LawfulRightIdentity.right_id (op := op)]

/-- Where the order does not matter, an element may be taken out of the middle. -/
theorem foldl_op_middle [Std.Commutative op] (a c : List α) (b : α) :
    (a ++ b :: c).foldl op e = op b ((a ++ c).foldl op e) := by
  rw [List.perm_middle.foldl_op_eq, List.foldl_cons, Std.Commutative.comm (op := op) e b, List.foldl_assoc]

end

/-! ### XOR8 (R133, R137) -/

theorem xor8_append (a b : Bytes) : xor8 (a ++ b) = xor8 a ^^^ xor8 b := foldl_op_append a b

theorem xor8_concat (s : Bytes) (b : Byte) : xor8 (s ++ [b]) = xor8 s ^^^ b := List.foldl_concat ..

theorem xor8_middle (a c : Bytes) (b : Byte) : xor8 (a ++ b :: c) = b ^^^ xor8 (a ++ c) := foldl_op_middle a c b

theorem xor8_perm {s s' : Bytes} (h : s.Perm s') : xor8 s = xor8 s' := h.foldl_op_eq

theorem flipBit_xor (b r : Byte) (j : Nat) : flipBit b j ^^^ r = flipBit (b ^^^ r) j := by
  rw [flipBit, flipBit, BitVec.xor_assoc, BitVec.xor_assoc, BitVec.xor_comm r]

/-! ### ADD8 (R134, R137) -/

theorem add8_append (a b : Bytes) : add8 (a ++ b) = add8 a + add8 b := foldl_op_append a b

theorem add8_concat (s : Bytes) (b : Byte) : add8 (s ++ [b]) = add8 s + b := List.foldl_concat ..

theorem add8_middle (a c : Bytes) (b : Byte) : add8 (a ++ b :: c) = b + add8 (a ++ c) := foldl_op_middle a c b

theorem add8_perm {s s' : Bytes} (h : s.Perm s') : add8 s = add8 s' := h.foldl_op_eq

/-- A byte has eight bits, so the bit that is flipped is one of its own. -/
theorem flipBit_ne {j : Nat} (h : j < 8) (b : Byte) : flipBit b j ≠ b := by
  have hmask : BitVec.ofNat 8 (2 ^ j) ≠ 0#8 := by
    revert j
    decide
  intro hflip
  exact hmask ((BitVec.xor_right_inj b).mp (hflip.trans BitVec.xor_zero.symm))

/-! ### CK_COMPUTE and CK_VERIFY (R131, R132) -/

section
variable {s : State} {bytes : Bytes} {r : Response}

theorem returns_ckCompute_iff : Returns (.ckCompute bytes) s r ↔ .ok (.checksum (s.params.ck bytes)) = r :=
  answer_eq_respond_iff (x := .ok (s.params.ck bytes))

theorem returns_ckVerify_iff {claimed : Byte} :
    Returns (.ckVerify bytes claimed) s r ↔ .ok (.verdict (decide (s.params.ck bytes = claimed))) = r :=
  answer_eq_respond_iff (x := .ok (decide (s.params.ck bytes = claimed)))

theorem returns_ckCompute_checksum_iff {c : Byte} :
    Returns (.ckCompute bytes) s (.ok (.checksum c)) ↔ s.params.ck bytes = c := by
  rw [returns_ckCompute_iff, Response.ok.injEq, Result.checksum.injEq]

theorem returns_ckVerify_true_iff {claimed : Byte} :
    Returns (.ckVerify bytes claimed) s (.ok (.verdict true)) ↔ s.params.ck bytes = claimed := by
  rw [returns_ckVerify_iff, Response.ok.injEq, Result.verdict.injEq, decide_eq_true_iff]

theorem returns_ckVerify_false_iff {claimed : Byte} :
    Returns (.ckVerify bytes claimed) s (.ok (.verdict false)) ↔ s.params.ck bytes ≠ claimed := by
  rw [returns_ckVerify_iff, Response.ok.injEq, Result.verdict.injEq, decide_eq_false_iff_not]

end

/-! ### The checksum byte of an encoded Frame (R84, R147) -/

theorem returns_frameEncode_bytes_iff {d t : Int} {payload f : Bytes} {s : State} :
    Returns (.frameEncode d t payload) s (.ok (.bytes f)) ↔ frameEncode s.params d t payload = .ok f :=
  answer_eq_respond_ok_iff bytes_injective

/-- R147: a Frame comes behind the three tests alone. -/
theorem frameEncode_eq_ok_iff {P : Params} {d t : Int} {payload f : Bytes} :
    frameEncode P d t payload = .ok f ↔ (0 ≤ d ∧ d ≤ 255) ∧ (0 ≤ t ∧ t ≤ 255) ∧ payload.length ≤ P.maxPayload ∧
      frameBytes P (BitVec.ofInt 8 d) (BitVec.ofInt 8 t) payload = f := by
  simp only [frameEncode, ite_error_eq_ok_iff, not_or, not_lt, gt_iff_lt, Except.ok.injEq]

section
variable (first last : Byte) (body : Bytes)

theorem slice_between_first_and_last :
    slice ([first] ++ body ++ [last]) 1 (([first] ++ body ++ [last]).length - 1) = body := by
  simp [slice]

theorem byteAt_last : byteAt ([first] ++ body ++ [last]) (([first] ++ body ++ [last]).length - 1) = last := by
  simp [byteAt]

end

end Sys2Proof.Machine

namespace Sys2Proof

open Sys2Proof.Machine

/-- Settles O22: a verdict is true exactly for the byte CK_COMPUTE returns, and an encoded Frame ends with the
checksum of what stands between its first and its last byte. -/
theorem computedChecksumsVerify : Obligations.ComputedChecksumsVerify := by
  refine fun s => ⟨fun bytes c hcompute => ?_, fun d t payload f hencode => ?_⟩
  · have hck := returns_ckCompute_checksum_iff.mp hcompute
    exact ⟨returns_ckVerify_true_iff.mpr hck, fun c' hne => returns_ckVerify_false_iff.mpr (hck ▸ hne.symm)⟩
  · obtain ⟨-, -, -, rfl⟩ := frameEncode_eq_ok_iff.mp (returns_frameEncode_bytes_iff.mp hencode)
    rw [returns_ckVerify_true_iff, frameBytes, slice_between_first_and_last, byteAt_last]

/-- Settles O23: exclusive-or lets a byte be taken out of the middle (`xor8_middle`), and a byte cancels itself. -/
theorem xor8IsTheExclusiveOrOfAllBytes : Obligations.Xor8IsTheExclusiveOrOfAllBytes := by
  refine ⟨rfl, xor8_concat, fun s s' => xor8_perm, fun a c b j _ => ?_, fun s => ?_, fun a c => ?_, xor8_append,
    by decide⟩
  · rw [xor8_middle, xor8_middle, flipBit_xor]
  · rw [xor8_concat, BitVec.xor_self]
  · rw [xor8_middle, BitVec.zero_xor]

/-- Settles O24: addition lets a byte be taken out of the middle (`add8_middle`) and cancels, so the sum changes when
the byte does (`flipBit_ne`). -/
theorem add8IsTheSumOfAllBytesModulo256 : Obligations.Add8IsTheSumOfAllBytesModulo256 := by
  refine ⟨rfl, fun s b => ?_, fun s s' => add8_perm, fun a c b j hj => ?_, fun a c => ?_, fun a b => ?_,
    by decide, by decide⟩
  · rw [add8_concat, BitVec.toNat_add]
  · rw [add8_middle, add8_middle, Ne, BitVec.add_left_inj]
    exact flipBit_ne hj b
  · rw [add8_middle, BitVec.zero_add]
  · rw [add8_append, BitVec.toNat_add]

/-- Settles O20: the meaning of CK_COMPUTE is a result, CK of its operand. -/
theorem ckComputeReturnsTheChecksum : Obligations.CkComputeReturnsTheChecksum := by
  refine ⟨fun c => decode_of_op, fun bytes s => returns_ckCompute_checksum_iff.mpr rfl, rfl, rfl, fun s hxor => ?_,
    fun s hadd => ?_⟩
  · rw [returns_ckCompute_checksum_iff, hxor]
    decide
  · rw [returns_ckCompute_checksum_iff, hadd]
    decide

/-- Settles O21: the verdict decides whether CK of the operand is the claimed byte. -/
theorem ckVerifyReturnsWhetherTheChecksumIsClaimed : Obligations.CkVerifyReturnsWhetherTheChecksumIsClaimed :=
  ⟨fun _ => decode_of_op, fun _ _ _ => ⟨returns_ckVerify_true_iff.mpr, returns_ckVerify_false_iff.mpr⟩⟩

end Sys2Proof
end

-- ==== What FRAME_ENCODE and FRAME_DECODE answer, and that they undo each other ====
section
/-! PROOFS. The outcomes of the Packet Frame's two operations, the Frame that is read back, and what a flipped bit
does to it (spec/42_packet_frame.md rules R147 to R161). -/

namespace Sys2Proof.Machine

/-! ### The responses of the two operations (R90, R245) -/

/-- R245: an operation's response is an error exactly when its meaning is that error. -/
theorem answer_eq_respond_error_iff {α : Type} {s : State} {f : α → Result} {x : Except ErrorKind α} {e : ErrorKind} :
    s.answer f x = .next (s.respond (.error e)) ↔ x = .error e := by
  cases x with
  | ok a => simp [respond_inj]
  | error e' => simp [respond_inj]

theorem returns_frameEncode_error_iff {d t : Int} {payload : Bytes} {s : State} {e : ErrorKind} :
    Returns (.frameEncode d t payload) s (.error e) ↔ frameEncode s.params d t payload = .error e :=
  answer_eq_respond_error_iff

theorem returns_frameDecode_error_iff {f : Bytes} {s : State} {e : ErrorKind} :
    Returns (.frameDecode f) s (.error e) ↔ frameDecode s.params f = .error e :=
  answer_eq_respond_error_iff

theorem returns_frameDecode_iff {f : Bytes} {s : State} {r : Response} :
    Returns (.frameDecode f) s r ↔ responseOf .packet (frameDecode s.params f) = r :=
  answer_eq_respond_iff

theorem packet_injective : Function.Injective Result.packet := fun _ _ => Result.packet.inj

theorem responseOf_eq_error_iff {α : Type} {f : α → Result} {x : Except ErrorKind α} {e : ErrorKind} :
    responseOf f x = .error e ↔ x = .error e := by
  cases x with
  | ok a => simp [responseOf]
  | error e' => simp [responseOf]

/-! ### The errors of FRAME_DECODE (R150, R151) -/

/-- R150, R151: what each error kind of FRAME_DECODE says of the operand. The two kinds of the Field Codec are never
answered. -/
def RejectedFor (P : Params) (f : Bytes) : ErrorKind → Prop
  | .valueOutOfRange => False
  | .bufferTooShort => False
  | .syncMismatch => f ≠ [] ∧ f.head? ≠ some P.sync
  | .payloadTooLarge => f.head? = some P.sync ∧ 2 ≤ f.length ∧ (byteAt f 1).toNat > P.maxPayload
  | .incompleteFrame => f = [] ∨ (f.head? = some P.sync ∧
      (f.length < 2 ∨ ((byteAt f 1).toNat ≤ P.maxPayload ∧ f.length < 5 + (byteAt f 1).toNat)))
  | .checksumMismatch => WholeFrame P f ∧ ¬ ChecksumHolds P f
  | .unknownMessageType => WholeFrame P f ∧ ChecksumHolds P f ∧ P.reg (byteAt f 3) = none
  | .payloadShapeMismatch => WholeFrame P f ∧ ChecksumHolds P f ∧
      ∃ shape, P.reg (byteAt f 3) = some shape ∧ shape.accepts (byteAt f 1).toNat = false

section
variable {P : Params} {f : Bytes}

theorem checksumHolds_iff_slice : ChecksumHolds P f ↔
    P.ck (slice f 1 (4 + (byteAt f 1).toNat)) = byteAt f (4 + (byteAt f 1).toNat) := by
  rw [ChecksumHolds, slice_covered]

/-- R150: each line that raises an error is reached behind the tests before it. -/
theorem rejectedFor_of_frameDecode_eq_error {e : ErrorKind} (h : frameDecode P f = .error e) : RejectedFor P f e := by
  simp only [frameDecode] at h
  split at h
  · cases h
    exact .inl (List.length_eq_zero_iff.mp ‹_›)
  rename_i hne
  split at h
  · cases h
    rename_i hsync
    exact ⟨List.length_eq_zero_iff.not.mp hne, fun hhead => hsync (head?_eq_some_iff_byteAt.mp hhead).2⟩
  have hhead : f.head? = some P.sync := head?_eq_some_iff_byteAt.mpr ⟨hne, not_not.mp ‹_›⟩
  split at h
  · cases h
    exact .inr ⟨hhead, .inl ‹_›⟩
  have hlen : 2 ≤ f.length := not_lt.mp ‹_›
  split at h
  · cases h
    exact ⟨hhead, hlen, ‹_›⟩
  have hmax : (byteAt f 1).toNat ≤ P.maxPayload := not_lt.mp ‹_›
  split at h
  · cases h
    exact .inr ⟨hhead, .inr ⟨hmax, ‹_›⟩⟩
  have hwhole : WholeFrame P f := ⟨hhead, hlen, hmax, not_lt.mp ‹_›⟩
  split at h
  · cases h
    exact ⟨hwhole, checksumHolds_iff_slice.not.mpr ‹_›⟩
  have hck : ChecksumHolds P f := checksumHolds_iff_slice.mpr (not_not.mp ‹_›)
  split at h
  · cases h
    exact ⟨hwhole, hck, ‹_›⟩
  · split at h
    · cases h
    · cases h
      exact ⟨hwhole, hck, _, ‹_›, Bool.eq_false_iff.mpr ‹_›⟩

/-- R150, lines 1 to 6: a whole Frame passes the tests before its checksum is looked at. -/
theorem wholeFrame_iff_tests_pass : WholeFrame P f ↔ f.length ≠ 0 ∧ byteAt f 0 = P.sync ∧ ¬ f.length < 2 ∧
    ¬ (byteAt f 1).toNat > P.maxPayload ∧ ¬ f.length < 5 + (byteAt f 1).toNat := by
  simp only [WholeFrame, head?_eq_some_iff_byteAt, not_lt, gt_iff_lt, and_assoc]

/-- R150, R151: an operand that meets a kind's condition passes the tests before that kind's line and fails there. -/
theorem frameDecode_eq_error_of_rejectedFor {e : ErrorKind} (h : RejectedFor P f e) :
    frameDecode P f = .error e := by
  cases e with
  | valueOutOfRange => cases h
  | bufferTooShort => cases h
  | syncMismatch =>
    obtain ⟨hne, hhead⟩ := h
    have hlen : f.length ≠ 0 := List.length_eq_zero_iff.not.mpr hne
    have hsync : byteAt f 0 ≠ P.sync := fun h0 => hhead (head?_eq_some_iff_byteAt.mpr ⟨hlen, h0⟩)
    simp [frameDecode, hne, hsync]
  | payloadTooLarge =>
    obtain ⟨hhead, hlen, hmax⟩ := h
    obtain ⟨hne, hsync⟩ := head?_eq_some_iff_byteAt.mp hhead
    simp [frameDecode, hne, hsync, hlen.not_gt, hmax]
  | incompleteFrame =>
    obtain rfl | ⟨hhead, hshort⟩ := h
    · rfl
    obtain ⟨hne, hsync⟩ := head?_eq_some_iff_byteAt.mp hhead
    obtain hlen | ⟨hmax, hshort⟩ := hshort
    · simp [frameDecode, hne, hsync, hlen]
    · simp [frameDecode, hne, hsync, hmax.not_gt, hshort]
  | checksumMismatch =>
    obtain ⟨hwhole, hck⟩ := h
    rw [wholeFrame_iff_tests_pass] at hwhole
    rw [checksumHolds_iff_slice] at hck
    simp [frameDecode, hwhole, hck]
  | unknownMessageType =>
    obtain ⟨hwhole, hck, hreg⟩ := h
    rw [wholeFrame_iff_tests_pass] at hwhole
    rw [checksumHolds_iff_slice] at hck
    simp [frameDecode, hwhole, hck, hreg]
  | payloadShapeMismatch =>
    obtain ⟨hwhole, hck, shape, hreg, haccepts⟩ := h
    rw [wholeFrame_iff_tests_pass] at hwhole
    rw [checksumHolds_iff_slice] at hck
    simp [frameDecode, hwhole, hck, hreg, haccepts]

theorem frameDecode_eq_error_iff {e : ErrorKind} : frameDecode P f = .error e ↔ RejectedFor P f e :=
  ⟨rejectedFor_of_frameDecode_eq_error, frameDecode_eq_error_of_rejectedFor⟩

end

/-! ### Bytes after the Frame (R152) -/

/-- R152: FRAME_DECODE reads no byte past the length its operand announces. -/
theorem frameDecode_append {P : Params} {f : Bytes} (hlen : 2 ≤ f.length) (hwhole : 5 + (byteAt f 1).toNat ≤ f.length)
    (rest : Bytes) : frameDecode P (f ++ rest) = frameDecode P f := by
  have hbyte : ∀ i < 5 + (byteAt f 1).toNat, byteAt (f ++ rest) i = byteAt f i :=
    fun i hi => byteAt_append_left f rest i (hi.trans_le hwhole)
  have hslice : ∀ i, slice (f ++ rest) i (4 + (byteAt f 1).toNat) = slice f i (4 + (byteAt f 1).toNat) :=
    fun i => slice_append_left f rest i _ (by omega)
  have hshort : ∀ n ≤ f.length, ((f ++ rest).length < n) = (f.length < n) := by
    intro n hn
    rw [List.length_append]
    exact propext (by omega)
  have hempty : ((f ++ rest).length = 0) = (f.length = 0) := by
    rw [List.length_append]
    exact propext (by omega)
  simp only [frameDecode, hempty, hbyte 0 (by omega), hbyte 1 (by omega), hbyte 2 (by omega), hbyte 3 (by omega),
    hbyte (4 + (byteAt f 1).toNat) (by omega), hslice, hshort 2 hlen, hshort _ hwhole]

/-! ### The tests and the Frame of FRAME_ENCODE (R147) -/

section
variable {P : Params} {d t : Int} {payload : Bytes}

theorem frameEncode_of_deviceId_out_of_range (h : d < 0 ∨ d > 255) :
    frameEncode P d t payload = .error .valueOutOfRange :=
  if_pos h

theorem frameEncode_of_messageType_out_of_range (hd : 0 ≤ d ∧ d ≤ 255) (h : t < 0 ∨ t > 255) :
    frameEncode P d t payload = .error .valueOutOfRange :=
  (if_neg (by omega)).trans (if_pos h)

theorem frameEncode_of_payload_too_large (hd : 0 ≤ d ∧ d ≤ 255) (ht : 0 ≤ t ∧ t ≤ 255)
    (h : payload.length > P.maxPayload) : frameEncode P d t payload = .error .payloadTooLarge :=
  (if_neg (by omega)).trans ((if_neg (by omega)).trans (if_pos h))

end

section
variable (P : Params) (d t : Byte) (payload : Bytes)

theorem frameBytes_eq_cons : frameBytes P d t payload =
    P.sync :: BitVec.ofNat 8 payload.length :: d :: t :: (payload ++ [P.ck (frameBody d t payload)]) := rfl

theorem frameBytes_payload : ((frameBytes P d t payload).drop 4).take payload.length = payload := by
  simp [frameBytes_eq_cons]

@[simp] theorem frameBytes_length : (frameBytes P d t payload).length = 5 + payload.length := by
  simp only [frameBytes_eq_cons, List.length_cons, List.length_append, List.length_nil]
  omega

/-- R147: the two id bytes are operands that fit a byte. -/
theorem frameEncode_of_bytes (h : payload.length ≤ P.maxPayload) :
    frameEncode P d.toNat t.toNat payload = .ok (frameBytes P d t payload) := by
  have hd := d.isLt
  have ht := t.isLt
  rw [frameEncode_eq_ok_iff, BitVec.ofInt_natCast, BitVec.ofInt_natCast, BitVec.ofNat_toNat, BitVec.ofNat_toNat]
  exact ⟨by omega, by omega, h, by simp⟩

end

section
variable {P : Params} (d t : Byte) {payload : Bytes} (h : payload.length ≤ P.maxPayload)
include h

/-- R149: the length always fits its byte. -/
theorem frameBytes_length_byte : (byteAt (frameBytes P d t payload) 1).toNat = payload.length :=
  toNat_ofNat_of_le_255 (h.trans (maxPayload_le_255 P))

theorem wholeFrame_frameBytes : WholeFrame P (frameBytes P d t payload) := by
  rw [WholeFrame, frameBytes_length_byte d t h, frameBytes_length]
  exact ⟨rfl, by omega, h, le_rfl⟩

/-- R84, R147: what FRAME_ENCODE covers is what FRAME_DECODE checks. -/
theorem checksumHolds_frameBytes : ChecksumHolds P (frameBytes P d t payload) := by
  have hlast : 4 + payload.length = (frameBytes P d t payload).length - 1 := by
    rw [frameBytes_length]
    omega
  rw [checksumHolds_iff_slice, frameBytes_length_byte d t h, hlast, frameBytes, slice_between_first_and_last,
    byteAt_last]

end

/-- R147: what FRAME_DECODE's tests find in a Frame that FRAME_ENCODE returned. -/
theorem encoded_frame_is_whole {P : Params} {d t : Int} {payload f : Bytes} (h : frameEncode P d t payload = .ok f) :
    WholeFrame P f ∧ ChecksumHolds P f ∧ (byteAt f 1).toNat = payload.length ∧ f.length = 5 + payload.length := by
  obtain ⟨-, -, hmax, rfl⟩ := frameEncode_eq_ok_iff.mp h
  exact ⟨wholeFrame_frameBytes _ _ hmax, checksumHolds_frameBytes _ _ hmax, frameBytes_length_byte _ _ hmax,
    frameBytes_length ..⟩

/-! ### Decode undoes encode (R160) -/

section
variable {P : Params} {p : Packet} (rest : Bytes) (h : p.payload.length ≤ P.maxPayload)
include h

/-- R160: a Frame is whole, so what follows it is not read. -/
theorem frameDecode_frameBytes_append : frameDecode P (frameBytes P p.deviceId p.messageType p.payload ++ rest) =
    frameDecode P (frameBytes P p.deviceId p.messageType p.payload) := by
  obtain ⟨-, hlen, -, hwhole⟩ := wholeFrame_frameBytes p.deviceId p.messageType h
  exact frameDecode_append hlen hwhole rest

theorem frameDecode_frameBytes_of_valid (hvalid : p.Valid P) :
    frameDecode P (frameBytes P p.deviceId p.messageType p.payload ++ rest) = .ok p := by
  rw [frameDecode_frameBytes_append rest h, frameDecode_eq_ok_iff, frameBytes_length_byte _ _ h, frameBytes_payload]
  exact ⟨wholeFrame_frameBytes _ _ h, checksumHolds_frameBytes _ _ h, hvalid.2, rfl⟩

theorem frameDecode_frameBytes_of_unregistered (hreg : P.reg p.messageType = none) :
    frameDecode P (frameBytes P p.deviceId p.messageType p.payload ++ rest) = .error .unknownMessageType := by
  rw [frameDecode_frameBytes_append rest h, frameDecode_eq_error_iff]
  exact ⟨wholeFrame_frameBytes _ _ h, checksumHolds_frameBytes _ _ h, hreg⟩

theorem frameDecode_frameBytes_of_not_accepted {shape : Shape} (hreg : P.reg p.messageType = some shape)
    (haccepts : shape.accepts p.payload.length = false) :
    frameDecode P (frameBytes P p.deviceId p.messageType p.payload ++ rest) = .error .payloadShapeMismatch := by
  rw [frameDecode_frameBytes_append rest h, frameDecode_eq_error_iff, RejectedFor, frameBytes_length_byte _ _ h]
  exact ⟨wholeFrame_frameBytes _ _ h, checksumHolds_frameBytes _ _ h, shape, hreg, haccepts⟩

end

/-! ### One byte of an operand replaced (R161) -/

section
variable {s : Bytes} {k : Nat} (x : Byte)

theorem byteAt_set_self (h : k < s.length) : byteAt (s.set k x) k = x := by
  simp [byteAt, h]

theorem byteAt_set_of_ne {i : Nat} (h : k ≠ i) : byteAt (s.set k x) i = byteAt s i := by
  simp [byteAt, List.getD_eq_getElem?_getD, List.getElem?_set_ne h]

theorem head?_set_of_pos (h : 1 ≤ k) : (s.set k x).head? = s.head? := by
  rw [List.head?_eq_getElem?, List.head?_eq_getElem?, List.getElem?_set_ne (by omega)]

/-- R84: the sync byte is not covered, so the covered bytes stand one place lower. -/
theorem slice_one_set (h : 1 ≤ k) (n : Nat) : slice (s.set k x) 1 n = (slice s 1 n).set (k - 1) x := by
  rw [slice, slice, List.drop_set, if_neg (by omega), List.take_set]

theorem byteAt_slice_one {n : Nat} (hk : 1 ≤ k) (hn : k < n) : byteAt (slice s 1 n) (k - 1) = byteAt s k := by
  simp only [byteAt, slice, List.getD_eq_getElem?_getD]
  rw [List.getElem?_take_of_lt (by omega), List.getElem?_drop, Nat.add_sub_cancel' hk]

end

/-- R133, R134: XOR8 and ADD8 tell any two values of one byte apart. -/
theorem checksum_middle_injective {ck : Bytes → Byte} (hck : ck = xor8 ∨ ck = add8) (a c : Bytes) :
    Function.Injective fun b => ck (a ++ b :: c) := by
  intro b b' h
  obtain rfl | rfl := hck
  · simpa only [xor8_middle, BitVec.xor_left_inj] using h
  · simpa only [add8_middle, BitVec.add_left_inj] using h

theorem checksum_set_ne {ck : Bytes → Byte} (hck : ck = xor8 ∨ ck = add8) {s : Bytes} {i : Nat} {x : Byte}
    (hi : i < s.length) (hx : x ≠ byteAt s i) : ck (s.set i x) ≠ ck s := by
  have hset : ∀ y, s.set i y = s.take i ++ y :: s.drop (i + 1) := fun y => by
    rw [List.set_eq_take_append_cons_drop, if_pos hi]
  have hself : s.set i (byteAt s i) = s := by
    simp [byteAt, hi]
  intro heq
  refine hx (checksum_middle_injective hck (s.take i) (s.drop (i + 1)) ?_)
  simpa only [← hset, hself] using heq

section
variable {P : Params} {f : Bytes} {k : Nat} {x : Byte} (hwhole : WholeFrame P f)
include hwhole

theorem rejectedFor_syncMismatch_of_set_zero (hx : x ≠ byteAt f 0) : RejectedFor P (f.set 0 x) .syncMismatch := by
  obtain ⟨hhead, hlen, -, -⟩ := hwhole
  obtain ⟨hne, hsync⟩ := head?_eq_some_iff_byteAt.mp hhead
  have hne' : f.set 0 x ≠ [] := by simpa using hne
  refine ⟨hne', fun hhead' => hx ?_⟩
  rw [hsync, ← (head?_eq_some_iff_byteAt.mp hhead').2, byteAt_set_self x (by omega)]

theorem rejectedFor_payloadTooLarge_of_set_one (hx : x.toNat > P.maxPayload) :
    RejectedFor P (f.set 1 x) .payloadTooLarge := by
  obtain ⟨hhead, hlen, -, -⟩ := hwhole
  rw [RejectedFor, head?_set_of_pos x le_rfl, List.length_set, byteAt_set_self x hlen]
  exact ⟨hhead, hlen, hx⟩

theorem rejectedFor_incompleteFrame_of_set_one (hx : x.toNat ≤ P.maxPayload) (hshort : f.length < 5 + x.toNat) :
    RejectedFor P (f.set 1 x) .incompleteFrame := by
  obtain ⟨hhead, hlen, -, -⟩ := hwhole
  rw [RejectedFor, head?_set_of_pos x le_rfl, List.length_set, byteAt_set_self x hlen]
  exact .inr ⟨hhead, .inr ⟨hx, hshort⟩⟩

theorem rejectedFor_checksumMismatch_of_set_one (hx : x.toNat ≤ (byteAt f 1).toNat)
    (hck : P.ck (slice (f.set 1 x) 1 (4 + x.toNat)) ≠ byteAt (f.set 1 x) (4 + x.toNat)) :
    RejectedFor P (f.set 1 x) .checksumMismatch := by
  obtain ⟨hhead, hlen, hmax, hfits⟩ := hwhole
  rw [RejectedFor, WholeFrame, checksumHolds_iff_slice, head?_set_of_pos x le_rfl, List.length_set,
    byteAt_set_self x hlen]
  exact ⟨⟨hhead, hlen, hx.trans hmax, by omega⟩, hck⟩

/-- R161: behind the length byte the tests before the checksum see no change, and the checksum's test sees it in the
covered bytes or in the checksum byte itself. -/
theorem rejectedFor_checksumMismatch_of_set (hxor : P.ck = xor8 ∨ P.ck = add8) (hholds : ChecksumHolds P f)
    (hk : 2 ≤ k) (hk' : k < 5 + (byteAt f 1).toNat) (hx : x ≠ byteAt f k) :
    RejectedFor P (f.set k x) .checksumMismatch := by
  have hlength : byteAt (f.set k x) 1 = byteAt f 1 := byteAt_set_of_ne x (by omega)
  constructor
  · rwa [WholeFrame, head?_set_of_pos x (by omega), hlength, List.length_set]
  obtain ⟨-, -, -, hfits⟩ := hwhole
  rw [checksumHolds_iff_slice] at hholds ⊢
  rw [hlength, slice_one_set x (by omega)]
  have hcovered := slice_length f 1 (4 + (byteAt f 1).toNat) (by omega)
  obtain rfl | hlt : k = 4 + (byteAt f 1).toNat ∨ k < 4 + (byteAt f 1).toNat := by omega
  · rw [byteAt_set_self x (by omega), List.set_eq_of_length_le hcovered.le, hholds]
    exact hx.symm
  · rw [byteAt_set_of_ne x (by omega), ← hholds]
    refine checksum_set_ne hxor (by omega) ?_
    rwa [byteAt_slice_one (by omega) hlt]

end

end Sys2Proof.Machine

namespace Sys2Proof

open Sys2Proof.Machine

/-- Settles O29: an encoded Frame is whole and its checksum holds, so the Shape of its type alone decides. -/
theorem frameDecodeUndoesFrameEncode : Obligations.FrameDecodeUndoesFrameEncode := by
  constructor
  · exact fun P p rest h => ⟨_, frameEncode_of_bytes P _ _ _ h, frameDecode_frameBytes_of_valid rest h,
      frameDecode_frameBytes_of_unregistered rest h, fun _ => frameDecode_frameBytes_of_not_accepted rest h⟩
  · exact fun s p rest h => ⟨_, returns_frameEncode_bytes_iff.mpr (frameEncode_of_bytes s.params _ _ _ h),
      fun hvalid => returns_frameDecode_packet_iff.mpr (frameDecode_frameBytes_of_valid rest h hvalid),
      fun hreg => returns_frameDecode_error_iff.mpr (frameDecode_frameBytes_of_unregistered rest h hreg),
      fun _ hreg haccepts => returns_frameDecode_error_iff.mpr
        (frameDecode_frameBytes_of_not_accepted rest h hreg haccepts)⟩

/-- Settles O26: `frameDecode_eq_error_iff` gives each error its condition, `frameDecode_eq_ok_iff` the Packet. -/
theorem frameDecodeOutcomesHaveTheirConditions : Obligations.FrameDecodeOutcomesHaveTheirConditions := by
  refine ⟨fun c => decode_of_op, fun f s => ⟨_, returns_frameDecode_iff.mpr rfl, ?_⟩⟩
  have herror : ∀ e, responseOf .packet (frameDecode s.params f) = .error e ↔ RejectedFor s.params f e :=
    fun _ => responseOf_eq_error_iff.trans frameDecode_eq_error_iff
  exact ⟨herror _, herror _, herror _, herror _, herror _, herror _,
    fun _ => (responseOf_eq_ok_iff packet_injective).trans frameDecode_eq_ok_iff⟩

/-- Settles O27: FRAME_DECODE reads nothing past the announced length (`frameDecode_append`). -/
theorem bytesAfterTheFrameAreIgnored : Obligations.BytesAfterTheFrameAreIgnored := by
  intro s f rest r hlen hwhole hreturns
  rw [returns_frameDecode_iff] at hreturns ⊢
  rw [frameDecode_append hlen hwhole, hreturns]

/-- Settles O25: each error is the first test that fails, and behind the three tests stands the Frame. -/
theorem frameEncodeReturnsTheFrameOrItsFirstError : Obligations.FrameEncodeReturnsTheFrameOrItsFirstError := by
  refine ⟨fun c => decode_of_op, fun d t payload s => ⟨fun hd => ?_, fun hd0 hd ht => ?_,
    fun hd0 hd ht0 ht hlong => ?_, fun hd0 hd ht0 ht hfits => ?_⟩⟩
  · exact returns_frameEncode_error_iff.mpr (frameEncode_of_deviceId_out_of_range hd)
  · exact returns_frameEncode_error_iff.mpr (frameEncode_of_messageType_out_of_range ⟨hd0, hd⟩ ht)
  · exact returns_frameEncode_error_iff.mpr (frameEncode_of_payload_too_large ⟨hd0, hd⟩ ⟨ht0, ht⟩ hlong)
  · exact ⟨_, toNat_ofNat_of_le_255 (hfits.trans (maxPayload_le_255 _)), frameBytes_length ..,
      returns_frameEncode_bytes_iff.mpr (frameEncode_eq_ok_iff.mpr ⟨⟨hd0, hd⟩, ⟨ht0, ht⟩, hfits, rfl⟩)⟩

/-- Settles O30: an encoded Frame is whole, and the flipped bit changes the byte that one of the tests looks at. -/
theorem flippedBitGivesTheKindOfItsByteSaveAMatchingShrunkLength :
    Obligations.FlippedBitGivesTheKindOfItsByteSaveAMatchingShrunkLength := by
  intro s p f k j hck hencode hk hj g len
  obtain ⟨hwhole, hholds, hlength, hsize⟩ := encoded_frame_is_whole (returns_frameEncode_bytes_iff.mp hencode)
  have hflip := flipBit_ne hj
  simp only [returns_frameDecode_error_iff, frameDecode_eq_error_iff]
  refine ⟨?_, fun hk2 => ?_, ?_, ?_, ?_⟩
  · rintro rfl
    exact rejectedFor_syncMismatch_of_set_zero hwhole (hflip _)
  · exact rejectedFor_checksumMismatch_of_set hwhole hck hholds hk2 (by rwa [hlength, ← hsize]) (hflip _)
  · rintro rfl hlarge
    exact rejectedFor_payloadTooLarge_of_set_one hwhole hlarge
  · rintro rfl hfits hgrows
    exact rejectedFor_incompleteFrame_of_set_one hwhole hfits (hsize ▸ Nat.add_lt_add_left hgrows 5)
  · rintro rfl hshrinks hmismatch
    exact rejectedFor_checksumMismatch_of_set_one hwhole (hshrinks.le.trans hlength.ge) hmismatch

end Sys2Proof
end

-- ==== The replay of FEED and the batch scan ====
section
/-! PROOFS. What one FEED does in each position, how the loop replays a rejected candidate, and that chunks agree with
the batch formulation (spec/43_decoder.md rules R172 to R190). -/

namespace Sys2Proof.Machine

variable {P : Params} {buf s : Bytes} {x : Byte}

/-! ### One FEED, position by position (R173, R174, R177) -/

theorem feed_seeking_sync (P : Params) (buf : Bytes) :
    Decoder.feed P ⟨.seeking, buf⟩ P.sync = (⟨.readingHeader, [P.sync]⟩, []) := by
  have hscan : scanByte P ⟨.seeking, buf⟩ P.sync = (⟨.readingHeader, [P.sync]⟩, []) := if_pos rfl
  rw [feed_eq_scanByte (by simp) (by simp [hscan]), hscan]

theorem feed_seeking_noise (hx : x ≠ P.sync) : Decoder.feed P ⟨.seeking, buf⟩ x = (⟨.seeking, buf⟩, []) := by
  have hscan : scanByte P ⟨.seeking, buf⟩ x = (⟨.seeking, buf⟩, []) := if_neg hx
  rw [feed_eq_scanByte (by simp) (by simp [hscan]), hscan]

theorem feed_readingHeader (P : Params) (buf : Bytes) (x : Byte) : Decoder.feed P ⟨.readingHeader, buf⟩ x =
    (⟨if buf.length + 1 = 4 then .readingPayload else .readingHeader, buf ++ [x]⟩, []) := by
  have hscan : scanByte P ⟨.readingHeader, buf⟩ x =
      (⟨if buf.length + 1 = 4 then .readingPayload else .readingHeader, buf ++ [x]⟩, []) := by
    simp [scanByte]
  rw [feed_eq_scanByte (by simp) (by rw [hscan]; dsimp only; split <;> simp), hscan]

theorem eq_of_st_eq {d : Decoder} {st : St} (h : d.st = st) : d = ⟨st, d.buf⟩ := by
  subst h
  rfl

/-- R23, R175: the length byte of a candidate in ReadingPayload is not the byte that is fed. -/
theorem length_byte_of_readingPayload {d : Decoder} (h : d.Quiescent P) (hst : d.st = .readingPayload) (x : Byte) :
    (byteAt (d.buf ++ [x]) 1).toNat = d.candidateLength := by
  rw [eq_of_st_eq hst, quiescent_readingPayload_iff] at h
  obtain ⟨hfour, -⟩ := h
  rw [byteAt_append_left _ _ _ (by omega), Decoder.candidateLength]

/-! ### The replay queue (R176) -/

/-- The same loop with more bytes waiting at the end of the queue and events emitted before. -/
def Scan.extend (c : Scan) (before : List Event) (more : Bytes) : Scan :=
  { dec := c.dec, q := c.q ++ more, events := before ++ c.events }

/-- R181: a turn reads the front of the queue and adds to the end of the events. -/
theorem scanTurn_extend {c : Scan} (h : ¬ c.Done) (before : List Event) (more : Bytes) :
    scanTurn P (c.extend before more) = (scanTurn P c).extend before more := by
  obtain ⟨hst, heq⟩ | ⟨hst, x, q, hq, heq⟩ := scanTurn_cases (P := P) h
  · rw [heq, scanTurn_validating (c := c.extend before more) hst]
    cases hdecode : frameDecode P c.dec.buf <;> simp [validate, Scan.extend, hdecode]
  · rw [heq, scanTurn_cons (c := c.extend before more) (x := x) (q := q ++ more) hst (by simp [Scan.extend, hq])]
    simp [Scan.extend]

theorem extend_not_done {c : Scan} (h : ¬ c.Done) (before : List Event) (more : Bytes) :
    ¬ (c.extend before more).Done :=
  fun ⟨hq, hst⟩ => h ⟨List.append_eq_nil_iff.mp hq |>.1, hst⟩

/-- The front of the queue may be scanned to its end before the rest is looked at. -/
theorem finish_extend (c : Scan) (before : List Event) (more : Bytes) :
    ((c.finish P).extend before more).finish P = (c.extend before more).finish P := by
  refine finish_keeps (motive := fun c' => (c'.extend before more).finish P = (c.extend before more).finish P)
    (fun c' hdone hc' => ?_) rfl
  rw [← scanTurn_extend hdone, ← finish_turn P _ (extend_not_done hdone before more), hc']

theorem feed_not_validating (P : Params) (d : Decoder) (x : Byte) : (d.feed P x).1.st ≠ .validating :=
  (finish_done P (Scan.start d x)).2

/-- R176, R183: a replay queue is scanned as a chunk is fed. -/
theorem finish_eq_feedChunk {d : Decoder} (hst : d.st ≠ .validating) (q : Bytes) (evs : List Event) :
    Scan.finish P ⟨d, q, evs⟩ = ⟨(Decoder.feedChunk P d q).1, [], evs ++ (Decoder.feedChunk P d q).2⟩ := by
  induction q generalizing d evs with
  | nil => simpa [Decoder.feedChunk] using finish_of_done P _ ⟨rfl, hst⟩
  | cons x xs ih =>
    have hfirst : ((Scan.start d x).finish P).extend evs xs = ⟨(d.feed P x).1, xs, evs ++ (d.feed P x).2⟩ := by
      rw [feed_eq_finish, Scan.extend, (finish_done P (Scan.start d x)).1]
      rfl
    have hstart : (⟨d, x :: xs, evs⟩ : Scan) = (Scan.start d x).extend evs xs := by
      simp [Scan.extend, Scan.start]
    rw [hstart, ← finish_extend, hfirst, ih (feed_not_validating P d x)]
    simp [Decoder.feedChunk]

/-! ### The byte that completes a candidate (R177, R178) -/

/-- R175: the candidate is validated in the FEED of its last byte. -/
theorem feed_completing (hfull : buf.length ≠ P.maxFrame)
    (hcomplete : buf.length + 1 = 5 + (byteAt (buf ++ [x]) 1).toNat) :
    Decoder.feed P ⟨.readingPayload, buf⟩ x =
      (((validate P ⟨⟨.validating, buf ++ [x]⟩, [], []⟩).finish P).dec,
       ((validate P ⟨⟨.validating, buf ++ [x]⟩, [], []⟩).finish P).events) := by
  have hstart : ¬ (Scan.start ⟨.readingPayload, buf⟩ x).Done := fun hdone => List.cons_ne_nil _ _ hdone.1
  have hscan : scanTurn P (Scan.start ⟨.readingPayload, buf⟩ x) = ⟨⟨.validating, buf ++ [x]⟩, [], []⟩ := by
    rw [scanTurn_cons (x := x) (q := []) (by simp [Scan.start]) rfl]
    simp [Scan.start, scanByte, hfull, hcomplete]
  have hcandidate : ¬ Scan.Done ⟨⟨.validating, buf ++ [x]⟩, [], []⟩ := fun hdone => hdone.2 rfl
  rw [feed_eq_finish, finish_turn P _ hstart, hscan, finish_turn P _ hcandidate, scanTurn_validating rfl]

theorem feed_accepted {p : Packet} (hfull : buf.length ≠ P.maxFrame)
    (hcomplete : buf.length + 1 = 5 + (byteAt (buf ++ [x]) 1).toNat)
    (hdecode : frameDecode P (buf ++ [x]) = .ok p) :
    Decoder.feed P ⟨.readingPayload, buf⟩ x = (Decoder.reset, [.packet p]) := by
  rw [feed_completing hfull hcomplete]
  simp only [validate, hdecode]
  rw [finish_of_done P _ ⟨rfl, by simp [Decoder.reset]⟩]
  rfl

theorem feed_rejected {e : ErrorKind} (hfull : buf.length ≠ P.maxFrame)
    (hcomplete : buf.length + 1 = 5 + (byteAt (buf ++ [x]) 1).toNat)
    (hdecode : frameDecode P (buf ++ [x]) = .error e) :
    Decoder.feed P ⟨.readingPayload, buf⟩ x =
      ((Decoder.feedChunk P Decoder.reset ((buf ++ [x]).drop 1)).1,
       .frameRejected e :: (Decoder.feedChunk P Decoder.reset ((buf ++ [x]).drop 1)).2) := by
  rw [feed_completing hfull hcomplete]
  simp only [validate, hdecode]
  rw [finish_eq_feedChunk (by simp [Decoder.reset])]
  simp

/-- R178, R246: of a whole Frame only the last three tests are left to fail. -/
theorem rejection_of_wholeFrame {e : ErrorKind} (hwhole : WholeFrame P s) (h : frameDecode P s = .error e) :
    e = .checksumMismatch ∨ e = .unknownMessageType ∨ e = .payloadShapeMismatch := by
  obtain ⟨hhead, hlen, hmax, hfits⟩ := hwhole
  have hrejected := rejectedFor_of_frameDecode_eq_error h
  cases e with
  | valueOutOfRange => cases hrejected
  | bufferTooShort => cases hrejected
  | payloadTooLarge =>
    obtain ⟨-, -, hlarge⟩ := hrejected
    omega
  | syncMismatch =>
    obtain ⟨-, hsync⟩ := hrejected
    exact absurd hhead hsync
  | incompleteFrame =>
    obtain rfl | ⟨-, hshort⟩ := hrejected
    · cases hhead
    · omega
  | checksumMismatch => exact .inl rfl
  | unknownMessageType => exact .inr (.inl rfl)
  | payloadShapeMismatch => exact .inr (.inr rfl)

/-- R175: a candidate that completes before the buffer is full is within MAX_PAYLOAD. -/
theorem wholeFrame_of_completing {d : Decoder} (h : d.Quiescent P) (hst : d.st = .readingPayload)
    (hroom : d.buf.length < P.maxFrame) (hcomplete : d.buf.length + 1 = 5 + (byteAt (d.buf ++ [x]) 1).toNat) :
    WholeFrame P (d.buf ++ [x]) := by
  have hframe := maxFrame_eq P
  rw [eq_of_st_eq hst, quiescent_readingPayload_iff] at h
  obtain ⟨hfour, -, hsync, -⟩ := h
  have hlength : (d.buf ++ [x]).length = d.buf.length + 1 := by simp
  rw [← byteAt_append_left _ [x] _ (by omega)] at hsync
  exact ⟨head?_eq_some_iff_byteAt.mpr ⟨by omega, hsync⟩, by omega, by omega, by omega⟩

/-! ### Quiescent buffers (R30) -/

/-- R30: the buffer of a quiescent Decoder State gives its position. -/
theorem eq_ofBuf_of_quiescent {d : Decoder} (h : d.Quiescent P) : d = Decoder.ofBuf d.buf := by
  obtain ⟨st, buf⟩ := d
  cases st with
  | seeking =>
    cases quiescent_seeking_iff.mp h
    rfl
  | readingHeader =>
    obtain ⟨hlo, hhi, -⟩ := quiescent_readingHeader_iff.mp h
    simp [Decoder.ofBuf, List.ne_nil_of_length_pos hlo, hhi]
  | readingPayload =>
    obtain ⟨hlo, -⟩ := quiescent_readingPayload_iff.mp h
    simp [Decoder.ofBuf, List.ne_nil_of_length_pos (Nat.zero_lt_of_lt hlo), Nat.not_le.mpr hlo]
  | validating => exact absurd h not_quiescent_validating

/-- R30: the fill counts of the three positions. -/
theorem buf_cases (buf : Bytes) : buf = [] ∨ (1 ≤ buf.length ∧ buf.length ≤ 3) ∨ 4 ≤ buf.length := by
  rw [← List.length_eq_zero_iff]
  omega

theorem ofBuf_header (h : 1 ≤ buf.length ∧ buf.length ≤ 3) : Decoder.ofBuf buf = ⟨.readingHeader, buf⟩ := by
  rw [Decoder.ofBuf, if_neg (by omega), if_pos h.2]

theorem ofBuf_payload (h : 4 ≤ buf.length) : Decoder.ofBuf buf = ⟨.readingPayload, buf⟩ := by
  rw [Decoder.ofBuf, if_neg (by omega), if_neg (by omega)]

/-- R30, R185: the bytes a quiescent Decoder State can hold: none, or the start of a candidate that is neither
complete nor past the bound. -/
theorem quiescent_ofBuf_iff : (Decoder.ofBuf buf).Quiescent P ↔ buf = [] ∨
    (1 ≤ buf.length ∧ byteAt buf 0 = P.sync ∧ buf.length ≤ P.maxFrame ∧
      (4 ≤ buf.length → buf.length < 5 + (byteAt buf 1).toNat)) := by
  have hmax := maxFrame_eq P
  obtain rfl | hheader | hpayload := buf_cases buf
  · exact iff_of_true (reset_quiescent P) (.inl rfl)
  · have hne := List.ne_nil_of_length_pos hheader.1
    simp only [ofBuf_header hheader, quiescent_readingHeader_iff, hne, false_or]
    constructor
    · rintro ⟨hlo, hhi, hsync⟩
      exact ⟨hlo, hsync, by omega, by omega⟩
    · rintro ⟨hlo, hsync, -⟩
      exact ⟨hlo, hheader.2, hsync⟩
  · have hne := List.ne_nil_of_length_pos (Nat.zero_lt_of_lt hpayload)
    simp only [ofBuf_payload hpayload, quiescent_readingPayload_iff, hne, false_or]
    constructor
    · rintro ⟨hlo, hlen, hsync, hroom⟩
      exact ⟨by omega, hsync, hroom, fun _ => hlen⟩
    · rintro ⟨-, hsync, hroom, hlen⟩
      exact ⟨hpayload, hlen hpayload, hsync, hroom⟩

theorem quiescent_ofBuf_of_append {more : Bytes} (h : (Decoder.ofBuf (buf ++ more)).Quiescent P) :
    (Decoder.ofBuf buf).Quiescent P := by
  rw [quiescent_ofBuf_iff] at h ⊢
  obtain hnil | ⟨-, hsync, hroom, hlen⟩ := h
  · exact .inl (List.append_eq_nil_iff.mp hnil).1
  obtain rfl | hne := eq_or_ne buf []
  · exact .inl rfl
  have hpos := List.length_pos_of_ne_nil hne
  rw [List.length_append] at hroom hlen
  rw [byteAt_append_left _ _ _ hpos] at hsync
  refine .inr ⟨hpos, hsync, by omega, fun hfour => ?_⟩
  rw [byteAt_append_left _ _ _ (by omega)] at hlen
  have := hlen (by omega)
  omega

/-- R173 to R175: a byte after which the buffer is still quiescent is held, with no event. -/
theorem feed_held (h : (Decoder.ofBuf (buf ++ [x])).Quiescent P) :
    Decoder.feed P (Decoder.ofBuf buf) x = (Decoder.ofBuf (buf ++ [x]), []) := by
  rw [quiescent_ofBuf_iff] at h
  obtain ⟨-, hsync, hroom, hlen⟩ := h.resolve_left (by simp)
  have hlength : (buf ++ [x]).length = buf.length + 1 := by simp
  obtain rfl | hheader | hpayload := buf_cases buf
  · obtain rfl : x = P.sync := hsync
    exact feed_seeking_sync P []
  · rw [ofBuf_header hheader, feed_readingHeader]
    split
    · rw [ofBuf_payload (by omega)]
    · rw [ofBuf_header (by omega)]
  · rw [ofBuf_payload hpayload, ofBuf_payload (by omega)]
    exact feed_readingPayload_append (by omega) (by have := hlen (by omega); omega)

theorem feedChunk_held_ofBuf (h : (Decoder.ofBuf buf).Quiescent P) :
    Decoder.feedChunk P Decoder.reset buf = (Decoder.ofBuf buf, []) := by
  induction buf using List.reverseRecOn with
  | nil => rfl
  | append_singleton buf x ih =>
    rw [feedChunk_append, ih (quiescent_ofBuf_of_append h), feedChunk_singleton, feed_held h]
    rfl

/-- R185: a quiescent Decoder State is the one its bytes lead to from the reset state. -/
theorem feedChunk_held {d : Decoder} (h : d.Quiescent P) : Decoder.feedChunk P Decoder.reset d.buf = (d, []) := by
  have heq := eq_ofBuf_of_quiescent h
  rw [feedChunk_held_ofBuf (heq ▸ h), ← heq]

theorem feedChunk_of_quiescent {d : Decoder} (h : d.Quiescent P) (chunk : Bytes) :
    Decoder.feedChunk P d chunk = Decoder.feedChunk P Decoder.reset (d.buf ++ chunk) := by
  rw [feedChunk_append, feedChunk_held h]
  rfl

/-! ### Noise, whole candidates and full buffers, from the reset state (R173, R177 to R179) -/

theorem feedChunk_noise (h : P.sync ∉ s) : Decoder.feedChunk P Decoder.reset s = (Decoder.reset, []) := by
  induction s with
  | nil => rfl
  | cons x xs ih =>
    obtain ⟨hx, hxs⟩ := List.ne_and_not_mem_of_not_mem_cons h
    have hfeed : Decoder.reset.feed P x = (Decoder.reset, []) := feed_seeking_noise hx.symm
    simp [Decoder.feedChunk, hfeed, ih hxs]

/-- R175: all of a whole Frame but its last byte is held, and that byte completes it. -/
theorem candidate_eq_concat (hwhole : WholeFrame P s) (hlength : s.length = 5 + (byteAt s 1).toNat) :
    ∃ buf x, s = buf ++ [x] ∧ buf.length ≠ P.maxFrame ∧
      buf.length + 1 = 5 + (byteAt (buf ++ [x]) 1).toNat ∧
      Decoder.feedChunk P Decoder.reset buf = (⟨.readingPayload, buf⟩, []) := by
  obtain ⟨hhead, -, hmax, -⟩ := hwhole
  obtain ⟨hne, hsync⟩ := head?_eq_some_iff_byteAt.mp hhead
  obtain ⟨buf, x, rfl⟩ : ∃ buf x, s = buf ++ [x] :=
    (List.eq_nil_or_concat' s).resolve_left (by rintro rfl; simp at hne)
  have hframe := maxFrame_eq P
  rw [List.length_append, List.length_singleton] at hlength
  have hbyte : byteAt (buf ++ [x]) 1 = byteAt buf 1 := byteAt_append_left _ _ _ (by omega)
  refine ⟨buf, x, rfl, by omega, hlength, ?_⟩
  rw [byteAt_append_left _ _ _ (by omega)] at hsync
  exact feedChunk_held (quiescent_readingPayload_iff.mpr ⟨by omega, by rw [← hbyte]; omega, hsync, by omega⟩)

theorem feedChunk_accepted {p : Packet} (hwhole : WholeFrame P s) (hlength : s.length = 5 + (byteAt s 1).toNat)
    (hdecode : frameDecode P s = .ok p) :
    Decoder.feedChunk P Decoder.reset s = (Decoder.reset, [.packet p]) := by
  obtain ⟨buf, x, rfl, hfull, hcomplete, hheld⟩ := candidate_eq_concat hwhole hlength
  rw [feedChunk_append, hheld, feedChunk_singleton, feed_accepted hfull hcomplete hdecode]
  rfl

theorem feedChunk_rejected {e : ErrorKind} (hwhole : WholeFrame P s)
    (hlength : s.length = 5 + (byteAt s 1).toNat) (hdecode : frameDecode P s = .error e) :
    Decoder.feedChunk P Decoder.reset s =
      ((Decoder.feedChunk P Decoder.reset (s.drop 1)).1,
       .frameRejected e :: (Decoder.feedChunk P Decoder.reset (s.drop 1)).2) := by
  obtain ⟨buf, x, rfl, hfull, hcomplete, hheld⟩ := candidate_eq_concat hwhole hlength
  rw [feedChunk_append, hheld, feedChunk_singleton, feed_rejected hfull hcomplete hdecode]
  rfl

/-- R31, R179: MAX_FRAME + 1 bytes that begin like an oversize candidate are discarded. -/
theorem feedChunk_full (hsync : byteAt s 0 = P.sync) (hlarge : P.maxPayload < (byteAt s 1).toNat)
    (hlength : s.length = P.maxFrame + 1) :
    Decoder.feedChunk P Decoder.reset s = (Decoder.reset, [.frameRejected .payloadTooLarge]) := by
  have hframe := maxFrame_eq P
  obtain ⟨head, rest, rfl, hhead⟩ : ∃ head rest, s = head ++ rest ∧ head.length = 4 :=
    ⟨s.take 4, s.drop 4, (List.take_append_drop 4 s).symm, by simp; omega⟩
  rw [byteAt_append_left _ _ _ (by omega)] at hsync hlarge
  rw [List.length_append] at hlength
  have hheld : Decoder.feedChunk P Decoder.reset head = (⟨.readingPayload, head⟩, []) :=
    feedChunk_held (quiescent_readingPayload_iff.mpr ⟨hhead.ge, by omega, hsync, by omega⟩)
  rw [feedChunk_append, hheld, feedChunk_oversize_discarded (by omega) (by omega) hlarge hlength]
  rfl

/-! ### The turns of the batch formulation (R185) -/

/-- R185: the event that the bytes `s` begin with, and how many bytes it disposes of. -/
inductive Disposes (P : Params) (s : Bytes) : Event → Nat → Prop
  | oversize : byteAt s 0 = P.sync → P.maxPayload < (byteAt s 1).toNat → P.maxFrame < s.length →
      Disposes P s (.frameRejected .payloadTooLarge) (P.maxFrame + 1)
  | accepted (p : Packet) : WholeFrame P s → frameDecode P (s.take (5 + (byteAt s 1).toNat)) = .ok p →
      Disposes P s (.packet p) (5 + (byteAt s 1).toNat)
  | rejected (e : ErrorKind) : WholeFrame P s → frameDecode P (s.take (5 + (byteAt s 1).toNat)) = .error e →
      Disposes P s (.frameRejected e) 1

/-- R185: a turn retains what a quiescent Decoder State can hold, drops a byte of noise, or disposes of an event's
bytes. -/
theorem batchScan_cases (P : Params) (n : Nat) (s : Bytes) :
    ((Decoder.ofBuf s).Quiescent P ∧ batchScan P (n + 1) s = ([], s)) ∨
    ((s ≠ [] ∧ byteAt s 0 ≠ P.sync) ∧ batchScan P (n + 1) s = batchScan P n (s.drop 1)) ∨
    ∃ ev k, Disposes P s ev k ∧
      batchScan P (n + 1) s = (ev :: (batchScan P n (s.drop k)).1, (batchScan P n (s.drop k)).2) := by
  have hframe := maxFrame_eq P
  simp only [batchScan, quiescent_ofBuf_iff]
  split
  · obtain rfl : s = [] := ‹_›
    exact .inl ⟨.inl rfl, rfl⟩
  rename_i hne
  have hpos := List.length_pos_of_ne_nil hne
  split
  · exact .inr (.inl ⟨⟨hne, ‹_›⟩, rfl⟩)
  have hsync : byteAt s 0 = P.sync := not_not.mp ‹_›
  split
  · exact .inl ⟨.inr ⟨hpos, hsync, by omega, by omega⟩, rfl⟩
  split
  · split
    · exact .inl ⟨.inr ⟨hpos, hsync, ‹_›, by omega⟩, rfl⟩
    · exact .inr (.inr ⟨_, _, .oversize hsync ‹_› (not_le.mp ‹_›), rfl⟩)
  split
  · exact .inl ⟨.inr ⟨hpos, hsync, by omega, fun _ => ‹_›⟩, rfl⟩
  have hwhole : WholeFrame P s :=
    ⟨head?_eq_some_iff_byteAt.mpr ⟨hpos.ne', hsync⟩, by omega, by omega, by omega⟩
  split
  · exact .inr (.inr ⟨_, _, .accepted _ hwhole ‹_›, rfl⟩)
  · exact .inr (.inr ⟨_, _, .rejected _ hwhole ‹_›, rfl⟩)

theorem byteAt_take {i n : Nat} (h : i < n) : byteAt (s.take n) i = byteAt s i := by
  simp [byteAt, List.getD_eq_getElem?_getD, List.getElem?_take_of_lt h]

/-- R185: the frame that a longer sequence begins with is whole by itself. -/
theorem wholeFrame_take (h : WholeFrame P s) :
    WholeFrame P (s.take (5 + (byteAt s 1).toNat)) ∧
      (s.take (5 + (byteAt s 1).toNat)).length = 5 + (byteAt (s.take (5 + (byteAt s 1).toNat)) 1).toNat := by
  obtain ⟨hhead, hlen, hmax, hfits⟩ := h
  have hlength : (s.take (5 + (byteAt s 1).toNat)).length = 5 + (byteAt s 1).toNat := by
    rw [List.length_take]
    omega
  rw [WholeFrame, byteAt_take (by omega), hlength, List.head?_take, if_neg (by omega)]
  exact ⟨⟨hhead, by omega, hmax, le_rfl⟩, rfl⟩

theorem feedChunk_of_take {d d' : Decoder} {n : Nat} {evs : List Event}
    (h : Decoder.feedChunk P d (s.take n) = (d', evs)) :
    Decoder.feedChunk P d s =
      ((Decoder.feedChunk P d' (s.drop n)).1, evs ++ (Decoder.feedChunk P d' (s.drop n)).2) := by
  conv_lhs => rw [← List.take_append_drop n s]
  rw [feedChunk_append, h]

section
variable {ev : Event} {k : Nat}

theorem Disposes.bounds (h : Disposes P s ev k) : 1 ≤ k ∧ k ≤ s.length := by
  cases h with
  | oversize _ _ hlong => omega
  | accepted p hwhole =>
    obtain ⟨-, -, -, hfits⟩ := hwhole
    omega
  | rejected e hwhole =>
    obtain ⟨-, hlen, -⟩ := hwhole
    omega

/-- R188: the events that may be emitted. -/
theorem Disposes.event_cases (h : Disposes P s ev k) :
    (∃ p, ev = .packet p ∧ p.Valid P) ∨
    ev = .frameRejected .checksumMismatch ∨ ev = .frameRejected .unknownMessageType ∨
    ev = .frameRejected .payloadShapeMismatch ∨ ev = .frameRejected .payloadTooLarge := by
  cases h with
  | oversize => simp
  | accepted p _ hdecode => exact .inl ⟨p, rfl, frameDecode_packet_valid hdecode⟩
  | rejected e hwhole hdecode =>
    obtain rfl | rfl | rfl := rejection_of_wholeFrame (wholeFrame_take hwhole).1 hdecode <;> simp

/-- R185: the Decoder emits the same event and goes on as if the same bytes were gone. -/
theorem Disposes.feedChunk_eq (h : Disposes P s ev k) : Decoder.feedChunk P Decoder.reset s =
    ((Decoder.feedChunk P Decoder.reset (s.drop k)).1,
     ev :: (Decoder.feedChunk P Decoder.reset (s.drop k)).2) := by
  cases h with
  | oversize hsync hlarge hlong =>
    have hframe := maxFrame_eq P
    have hlength : (s.take (P.maxFrame + 1)).length = P.maxFrame + 1 := by
      rw [List.length_take]
      omega
    rw [← byteAt_take (show 0 < P.maxFrame + 1 by omega)] at hsync
    rw [← byteAt_take (show 1 < P.maxFrame + 1 by omega)] at hlarge
    exact feedChunk_of_take (feedChunk_full hsync hlarge hlength)
  | accepted p hwhole hdecode =>
    obtain ⟨hwhole', hlength⟩ := wholeFrame_take hwhole
    exact feedChunk_of_take (feedChunk_accepted hwhole' hlength hdecode)
  | rejected e hwhole hdecode =>
    obtain ⟨hwhole', hlength⟩ := wholeFrame_take hwhole
    have hdrop : s.drop 1 = (s.take (5 + (byteAt s 1).toNat)).drop 1 ++ s.drop (5 + (byteAt s 1).toNat) := by
      rw [← List.drop_append_of_le_length (by omega), List.take_append_drop]
    rw [feedChunk_of_take (feedChunk_rejected hwhole' hlength hdecode), hdrop, feedChunk_append]
    rfl

end

/-- R185: from the reset state, the Decoder and the batch formulation agree. -/
theorem feedChunk_eq_batchScan {n : Nat} (h : s.length ≤ n) :
    Decoder.feedChunk P Decoder.reset s = (Decoder.ofBuf (batchScan P n s).2, (batchScan P n s).1) := by
  induction n generalizing s with
  | zero =>
    cases List.eq_nil_of_length_eq_zero (Nat.le_zero.mp h)
    rfl
  | succ n ih =>
    obtain ⟨hheld, heq⟩ | ⟨⟨hne, hnoise⟩, heq⟩ | ⟨ev, k, hdisposes, heq⟩ := batchScan_cases P n s
    · rw [heq, feedChunk_held_ofBuf hheld]
    · obtain ⟨x, xs, rfl⟩ := List.exists_cons_of_ne_nil hne
      have hfeed : Decoder.reset.feed P x = (Decoder.reset, []) := feed_seeking_noise hnoise
      rw [heq, List.drop_one, List.tail_cons, ← ih (by simpa using h)]
      simp [Decoder.feedChunk, hfeed]
    · have hbounds := hdisposes.bounds
      rw [heq, hdisposes.feedChunk_eq, ih (by rw [List.length_drop]; omega)]

/-! ### What the batch formulation emits and retains (R186 to R188) -/

theorem batchScan_retains_suffix (P : Params) (n : Nat) (s : Bytes) : (batchScan P n s).2 <:+ s := by
  induction n generalizing s with
  | zero => exact List.suffix_rfl
  | succ n ih =>
    obtain ⟨-, heq⟩ | ⟨-, heq⟩ | ⟨ev, k, -, heq⟩ := batchScan_cases P n s <;> rw [heq]
    · exact (ih _).trans (List.drop_suffix 1 s)
    · exact (ih _).trans (List.drop_suffix k s)

/-- R186: each event disposes of a byte. -/
theorem batchScan_events_length_le (P : Params) (n : Nat) (s : Bytes) : (batchScan P n s).1.length ≤ s.length := by
  induction n generalizing s with
  | zero => exact Nat.zero_le _
  | succ n ih =>
    obtain ⟨-, heq⟩ | ⟨-, heq⟩ | ⟨ev, k, hdisposes, heq⟩ := batchScan_cases P n s <;> rw [heq]
    · exact Nat.zero_le _
    · exact (ih _).trans (List.drop_suffix 1 s).length_le
    · have hbounds := hdisposes.bounds
      have hrest := ih (s.drop k)
      rw [List.length_drop] at hrest
      rw [List.length_cons]
      omega

theorem disposes_of_mem_batchScan {n : Nat} {ev : Event} (h : ev ∈ (batchScan P n s).1) :
    ∃ s' k, Disposes P s' ev k := by
  induction n generalizing s with
  | zero => cases h
  | succ n ih =>
    obtain ⟨-, heq⟩ | ⟨-, heq⟩ | ⟨ev', k, hdisposes, heq⟩ := batchScan_cases P n s <;> rw [heq] at h
    · cases h
    · exact ih h
    · obtain rfl | hrest := List.mem_cons.mp h
      · exact ⟨s, k, hdisposes⟩
      · exact ih hrest

/-- R185, for one FEED. -/
theorem feed_eq_batchScan {d : Decoder} (h : d.Quiescent P) (x : Byte) :
    d.feed P x = (Decoder.ofBuf (batchScan P (d.buf ++ [x]).length (d.buf ++ [x])).2,
      (batchScan P (d.buf ++ [x]).length (d.buf ++ [x])).1) := by
  rw [← feedChunk_singleton, feedChunk_of_quiescent h, feedChunk_eq_batchScan le_rfl]

end Sys2Proof.Machine

namespace Sys2Proof

open Sys2Proof.Machine

/-! ### FEED as an operation and as a chunk -/

theorem returnsWith_feed {s : State} {x : Byte} {d : Decoder} {evs : List Event} (hq : s.dec.Quiescent s.params)
    (h : s.dec.feed s.params x = (d, evs)) : ReturnsWith (.feed x) s d (.ok (.events evs)) := by
  rw [ReturnsWith, exec_feed_of_quiescent hq, h]
  rfl

/-- R183: what performing the FEED of `x` leaves of `s`, with the inputs `later` still to come. -/
def afterFeed (s : State) (x : Byte) (later : List Input) : State :=
  { s with
    dec := (s.dec.feed s.params x).1
    inputs := later
    responses := s.responses ++ [.ok (.events (s.dec.feed s.params x).2)] }

theorem step_feed {s : State} {x : Byte} {later : List Input} (hconf : s.Configured)
    (hq : s.dec.Quiescent s.params) (h : s.inputs = .command (encode (.feed x)) :: later) :
    core.step s = .next (afterFeed s x later) :=
  (step_of_command hconf h).trans (exec_feed_of_quiescent (s := { s with inputs := later }) hq x)

theorem run_succ_of_step {s t : State} (n : Nat) (h : core.step s = .next t) : core.run (n + 1) s = core.run n t := by
  simp only [Host.Core.run, h]

/-- Settles O31: in Seeking the buffer is empty, and the byte is the sync byte or noise. -/
theorem feedInSeekingStartsACandidateOrDropsNoise : Obligations.FeedInSeekingStartsACandidateOrDropsNoise := by
  intro s x hq hst
  have hdec := eq_of_st_eq hst
  have hbuf : s.dec.buf = [] := quiescent_seeking_iff.mp (hdec ▸ hq)
  rw [hbuf] at hdec
  constructor
  · rintro rfl
    exact returnsWith_feed hq (hdec ▸ feed_seeking_sync _ _)
  · intro hx
    exact returnsWith_feed hq (hdec ▸ feed_seeking_noise hx)

/-- Settles O32: the position after the byte depends on the fill count alone. -/
theorem feedInReadingHeaderAppends : Obligations.FeedInReadingHeaderAppends := by
  intro s x hq hst
  have hfeed := feed_readingHeader s.params s.dec.buf x
  rw [← eq_of_st_eq hst] at hfeed
  constructor
  · intro hlen
    exact returnsWith_feed hq (by rw [hfeed, if_neg hlen.ne])
  · intro hlen
    exact returnsWith_feed hq (by rw [hfeed, if_pos hlen])

/-- Settles O33: the byte leaves the candidate incomplete (`feed_readingPayload_append`). -/
theorem feedInReadingPayloadAppends : Obligations.FeedInReadingPayloadAppends := by
  intro s x hq hst hroom hlen
  rw [← length_byte_of_readingPayload hq hst x] at hlen
  apply returnsWith_feed hq
  rw [eq_of_st_eq hst]
  exact feed_readingPayload_append hroom.ne hlen.ne

/-- Settles O34: the fill count is tested before the byte is appended (`feed_readingPayload_full`). -/
theorem feedWithFullBufferDiscardsEverything : Obligations.FeedWithFullBufferDiscardsEverything := by
  intro s x hq hst hfull
  apply returnsWith_feed hq
  rw [eq_of_st_eq hst]
  exact feed_readingPayload_full hfull

/-- Settles O35: the completed candidate is validated in the same FEED, and nothing is left to scan. -/
theorem feedEmitsAnAcceptedCandidate : Obligations.FeedEmitsAnAcceptedCandidate := by
  intro s x p hq hst hroom hlen hdecode
  rw [← length_byte_of_readingPayload hq hst x] at hlen
  apply returnsWith_feed hq
  rw [eq_of_st_eq hst]
  exact feed_accepted hroom.ne hlen (returns_frameDecode_packet_iff.mp hdecode)

/-- Settles O36: the completed candidate is a whole Frame, so only its last tests can fail, and what is left of it is
replayed as a chunk (`finish_eq_feedChunk`). -/
theorem feedRescansARejectedCandidate : Obligations.FeedRescansARejectedCandidate := by
  intro s x e hq hst hroom hlen hdecode
  rw [← length_byte_of_readingPayload hq hst x] at hlen
  rw [returns_frameDecode_error_iff] at hdecode
  refine ⟨rejection_of_wholeFrame (wholeFrame_of_completing hq hst hroom hlen) hdecode, returnsWith_feed hq ?_⟩
  have hnonempty : 1 ≤ s.dec.buf.length := by omega
  rw [← List.drop_append_of_le_length hnonempty, eq_of_st_eq hst]
  exact feed_rejected hroom.ne hlen hdecode

/-- Settles O37: a quiescent FEED has no refusal, and every turn of its loop keeps what `feed_quiescent` needs. -/
theorem feedCompletesAndStaysQuiescent : Obligations.FeedCompletesAndStaysQuiescent :=
  ⟨fun _ => decode_of_op, fun _ x hq => ⟨_, _, returnsWith_feed hq rfl, feed_quiescent hq x⟩⟩

/-- Settles O38: the rank falls at every turn and starts no higher than the bound. -/
theorem feedLoopTerminates : Obligations.FeedLoopTerminates := by
  intro P d x n hn
  have hrank := rank_le_bound (Scan.start d x)
  obtain ⟨hq, hst⟩ := scanLoop_done P n _ (hrank.trans hn)
  exact ⟨hq, hst, scanLoop_mono P _ n _ hrank hn⟩

/-- Settles O39: each step performs the FEED of one byte and leaves a quiescent Decoder State for the next. -/
theorem feedChunkIsOneFeedPerByte : Obligations.FeedChunkIsOneFeedPerByte := by
  intro chunk
  induction chunk with
  | nil =>
    rintro s rest - - rfl
    exact ⟨[], rfl, rfl, by simp [Decoder.feedChunk, Host.Core.run]⟩
  | cons x xs ih =>
    intro s rest hconf hq hinputs
    have hstep := step_feed hconf hq hinputs
    obtain ⟨rs, hlength, hevents, hrun⟩ := ih (afterFeed s x _) rest hconf (feed_quiescent hq x) rfl
    refine ⟨.ok (.events (s.dec.feed s.params x).2) :: rs, by simp [hlength], ?_, ?_⟩
    · rw [List.map_cons, List.flatten_cons, hevents]
      rfl
    · refine (run_succ_of_step _ hstep).trans (hrun.trans ?_)
      simp only [afterFeed, List.append_assoc]
      rfl

/-- Settles O40: FEED_CHUNK threads the Decoder State byte by byte. -/
theorem chunkingDoesNotMatter : Obligations.ChunkingDoesNotMatter :=
  feedChunk_append

/-- Settles O41: the bytes held lead to the Decoder State, so only the reset state is left to compare
(`feedChunk_eq_batchScan`). -/
theorem feedChunkAgreesWithTheBatchScan : Obligations.FeedChunkAgreesWithTheBatchScan :=
  fun _ _ chunk hq => (feedChunk_of_quiescent hq chunk).trans (feedChunk_eq_batchScan le_rfl)

/-- Settles O42: the batch formulation disposes of a byte for each event, and the buffer holds at most MAX_FRAME. -/
theorem feedReturnsBoundedlyManyEvents : Obligations.FeedReturnsBoundedlyManyEvents := by
  intro P d x hq
  have hbound : (d.feed P x).2.length ≤ (d.buf ++ [x]).length := by
    rw [feed_eq_batchScan hq]
    exact batchScan_events_length_le ..
  rw [List.length_append, List.length_singleton] at hbound
  obtain ⟨-, -, -, -, -, hmax⟩ := hq
  exact ⟨hbound, hbound.trans (Nat.add_le_add_right hmax 1)⟩

/-- Settles O43: each event disposed of some bytes in the batch formulation, which only those events do. -/
theorem feedEventsAreValidPacketsOrFourReasons : Obligations.FeedEventsAreValidPacketsOrFourReasons := by
  intro P d x ev hq hmem
  rw [feed_eq_batchScan hq] at hmem
  obtain ⟨_, _, hdisposes⟩ := disposes_of_mem_batchScan hmem
  exact hdisposes.event_cases

/-- Settles O45: the bytes left are those the batch formulation retains. -/
theorem heldBytesAreASuffixOfTheStream : Obligations.HeldBytesAreASuffixOfTheStream := by
  intro P d x hq
  rw [feed_eq_batchScan hq]
  exact batchScan_retains_suffix ..

/-- Settles O47: an encoded Frame is a whole candidate that FRAME_DECODE accepts. -/
theorem encodedPacketsAreDelivered : Obligations.EncodedPacketsAreDelivered := by
  intro P p f hvalid hencode
  obtain ⟨hwhole, -, hbyte, hlength⟩ := encoded_frame_is_whole hencode
  have hfits : p.payload.length ≤ P.maxPayload := hvalid.1
  rw [frameEncode_of_bytes P _ _ _ hfits] at hencode
  obtain rfl : frameBytes P p.deviceId p.messageType p.payload = f := Except.ok.inj hencode
  have hdecode := frameDecode_frameBytes_of_valid [] hfits hvalid
  rw [List.append_nil] at hdecode
  exact feedChunk_accepted hwhole (by rw [hlength, hbyte]) hdecode

/-- Settles O46: the corrupted frame is a whole candidate that is rejected, the rest of it is noise, and the frame
after it meets the reset state. -/
theorem resynchronizationAfterACorruptedFrame : Obligations.ResynchronizationAfterACorruptedFrame := by
  intro P c f e p hhead hlength hmax hnoise hdecode hvalid hencode
  have hwhole : WholeFrame P c := ⟨hhead, by omega, hmax, hlength.ge⟩
  have hrejected := feedChunk_rejected hwhole hlength hdecode
  rw [feedChunk_noise hnoise] at hrejected
  rw [feedChunk_append, hrejected, encodedPacketsAreDelivered P p f hvalid hencode]
  rfl

end Sys2Proof
end

-- ==== The registry lookup, the Shapes and the two resets ====
section
/-! PROOFS. What REG_LOOKUP answers, which lengths a Shape accepts, and what RESET and hardware reset leave
(spec/44_registry_and_system.md rules R211 to R215, spec/70_reset_and_hazards.md rule R265). -/

namespace Sys2Proof.Machine

/-! ### REG_LOOKUP (R211) -/

theorem returns_regLookup_shape_iff {t : Byte} {s : State} {o : Option Shape} :
    Returns (.regLookup t) s (.ok (.shape o)) ↔ s.params.reg t = o :=
  (answer_eq_respond_ok_iff fun _ _ => Result.shape.inj).trans (.of_eq (Except.ok.injEq ..))

/-! ### The lengths a Shape accepts (R212, R214) -/

theorem accepts_fixedLen_iff {n len : Nat} : (Shape.fixedLen n).accepts len = true ↔ len = n :=
  decide_eq_true_iff

theorem accepts_variableLen_iff {min max len : Nat} :
    (Shape.variableLen min max).accepts len = true ↔ min ≤ len ∧ len ≤ max :=
  decide_eq_true_iff

theorem accepts_variableLen_of_max_lt_min {min max : Nat} (h : max < min) (len : Nat) :
    (Shape.variableLen min max).accepts len = false := by
  rw [Bool.eq_false_iff, ne_eq, accepts_variableLen_iff]
  rintro ⟨hmin, hmax⟩
  exact absurd (hmin.trans hmax) h.not_ge

/-! ### RESET and hardware reset (R215, R265) -/

/-- R215: RESET's meaning has no branch, so it completes alike in every state. -/
theorem returnsWith_reset (s : State) : ReturnsWith .reset s Decoder.reset (.ok .nothing) := rfl

theorem step_of_hardwareReset {s : State} {rest : List Input} (hconf : s.Configured)
    (h : s.inputs = .hardwareReset :: rest) : step s = .next ({ s with inputs := rest } : State).resetDecoder := by
  rw [step, if_pos hconf, takeInput_cons s _ rest h]
  rfl

end Sys2Proof.Machine

namespace Sys2Proof

open Sys2Proof.Machine

/-- Settles O48: the answer is `REG(t)`, which in a table in its one form is the entry listed for the code. -/
theorem regLookupReturnsTheEntry : Obligations.RegLookupReturnsTheEntry := by
  refine ⟨fun _ => decode_of_op, fun t s => ⟨fun shape hlisted hwf => ?_, fun habsent => ?_, ?_⟩⟩
  · exact returns_regLookup_shape_iff.mpr (lookup_of_mem s.reg t shape hwf hlisted)
  · exact returns_regLookup_shape_iff.mpr (lookup_of_not_mem s.reg t habsent)
  · exact returns_regLookup_shape_iff.mpr rfl

/-- Settles O49: each Shape's test is its range of lengths, both ends included. -/
theorem shapesAcceptInclusiveBounds : Obligations.ShapesAcceptInclusiveBounds :=
  ⟨fun _ _ => accepts_fixedLen_iff, fun _ _ _ => accepts_variableLen_iff,
    fun n len => (accepts_variableLen_same n len).symm, fun _ _ len h => accepts_variableLen_of_max_lt_min h len⟩

/-- Settles O50: both resets leave `Decoder.reset`, and neither looks at the Decoder State it finds. -/
theorem resetsClearTheDecoderSilently : Obligations.ResetsClearTheDecoderSilently :=
  ⟨fun _ => decode_of_op, returnsWith_reset, fun _ _ => step_of_hardwareReset⟩

end Sys2Proof
end

-- ==== The codes of the error kinds and the status of a response ====
section
/-! PROOFS. No error kind has the code 0, so a response's status tells success from every error
(spec/60_exceptions.md rule R231, spec/30_encoding.md rule R90). -/

namespace Sys2Proof.Machine

@[simp] theorem ErrorKind.ofCode_code (e : ErrorKind) : ErrorKind.ofCode e.code = some e :=
  ofCode_eq_some_iff.mpr rfl

/-- R231: the code 0, which is success, names no kind. -/
theorem ErrorKind.code_ne_zero (e : ErrorKind) : e.code ≠ 0#4 := by
  intro hzero
  have hnamed : ErrorKind.ofCode 0#4 = some e := ofCode_eq_some_iff.mpr hzero.symm
  cases hnamed

/-- R90: the status 0 is success and nothing else. -/
theorem Response.status_eq_zero_iff {r : Response} : r.status = 0#4 ↔ ∃ x, r = .ok x := by
  cases r with
  | ok x => exact ⟨fun _ => ⟨x, rfl⟩, fun _ => rfl⟩
  | error e => exact ⟨fun hzero => absurd hzero e.code_ne_zero, nofun⟩

end Sys2Proof.Machine

namespace Sys2Proof

open Sys2Proof.Machine

/-- Settles O5: the codes are read off the two tables, a kind's code names that kind and is not 0, and the position's
encoding is inverted both ways. -/
theorem errorCodesNameTheEightKinds : Obligations.ErrorCodesNameTheEightKinds :=
  ⟨rfl, rfl, rfl, rfl, rfl, rfl, rfl, rfl, ErrorKind.ofCode_code, fun _ => Response.status_eq_zero_iff,
    rfl, rfl, rfl, rfl, St.ofCode_code, St.code_ofCode⟩

end Sys2Proof
end

-- ==== Progress from safe states ====
section
/-! PROOFS. A safe state always steps, and steps to a safe state (spec/70_reset_and_hazards.md rules R277, R285). -/

namespace Sys2Proof

open Sys2Proof.Machine

/-- R285: only the reserved code and a Decoder State that is not quiescent stop an operation. -/
theorem exec_completes {i : Instr} {s : State} (hselects : i.wellFormed = true) (hq : s.dec.Quiescent s.params) :
    ∃ t, exec i s = .next t := by
  by_cases hpure : IsPure i = true
  · obtain ⟨r, hr⟩ := pureOperationsOnlyReturnAResponse i s hpure
    exact ⟨_, hr⟩
  · cases i with
    | feed b => exact ⟨_, exec_feed_of_quiescent hq b⟩
    | reset => exact ⟨_, returnsWith_reset s⟩
    | reservedF => cases hselects
    | _ => exact absurd rfl hpure

theorem step_completes {s : State} (h : SafeState s) : ∃ t, step s = .next t := by
  obtain ⟨⟨hconf, -, -, hq⟩, hselects⟩ := h
  cases hinputs : s.inputs with
  | nil => exact ⟨s, step_of_no_input hconf hinputs⟩
  | cons i rest =>
    have hi : i.selects = true := hselects i (hinputs ▸ List.mem_cons_self)
    cases i with
    | command c =>
      rw [step_of_command hconf hinputs]
      exact exec_completes hi hq
    | hardwareReset => exact ⟨_, step_of_hardwareReset hconf hinputs⟩

/-- R66: a step takes the oldest input, if there is one, and issues none. -/
theorem step_inputs {s t : State} (h : step s = .next t) : t.inputs = s.inputs.tail := by
  obtain ⟨-, ⟨hinputs, rfl⟩ | ⟨c, rest, hinputs, hexec⟩ | ⟨rest, hinputs, rfl⟩⟩ := step_cases h
  · rw [hinputs, List.tail_nil]
  · obtain ⟨-, -, -, hwaiting, -⟩ := exec_frame hexec
    rw [hwaiting, hinputs, List.tail_cons]
  · rw [resetDecoder_inputs, hinputs, List.tail_cons]

/-- Settles O60: a step exists by `step_completes`, keeps the invariant by O58, and leaves only inputs that were
already issued. -/
theorem safeStatesNeverStop : Obligations.SafeStatesNeverStop := by
  intro s hsafe
  obtain ⟨t, hstep⟩ := step_completes hsafe
  obtain ⟨hinv, hselects⟩ := hsafe
  have hinv' : Inv t := everyStepKeepsTheInvariant s t hinv hstep
  have hselects' : ∀ i ∈ t.inputs, i.selects = true := by
    intro i hi
    rw [step_inputs hstep] at hi
    exact hselects i (List.mem_of_mem_tail hi)
  exact ⟨t, hstep, hinv', hselects'⟩

end Sys2Proof
end
